-- ==== Sys2Proof/Word.lean ====
section
/-! DEFINITION. The words of the machine: bytes, 16-bit words and 32-bit long words (00_scope R9, R10). -/

namespace Sys2Proof

/-- The unit of addressing (20_memory R80). -/
abbrev Byte := BitVec 8

/-- A 16-bit instruction word, status word or extension word. -/
abbrev Half := BitVec 16

/-- A 32-bit register, address or operand value; a smaller operand is held zero-extended (00_scope R10). -/
abbrev Word := BitVec 32

end Sys2Proof
end

