-- ==== Sys2Proof/Syntax.lean ====
section
/-! DEFINITION. The instructions: one constructor of `Instr` per row of spec/opcode_table.json. An `Instr` is the
descriptor of the FIRST WORD ("instruction family, addressing mode, register selectors, operand size", 30_encoding
R120); extension words are fetched from the bus while the instruction executes (30_encoding R120, R156; log 16). -/

namespace Sys2Proof

/-- Operand sizes (00_scope R10). -/
inductive Size where
  | b | w | l
  deriving DecidableEq, Repr

/-- A register number, `D[n]` or `A[n]` as the format says (30_encoding R125). -/
abbrev Reg := Fin 8

/-- The twelve addressing modes of the effective-address field (30_encoding R123). -/
inductive Ea where
  | dn (n : Reg)
  | an (n : Reg)
  | ind (n : Reg)
  | postinc (n : Reg)
  | predec (n : Reg)
  | disp (n : Reg)
  | index (n : Reg)
  | absW
  | absL
  | pcDisp
  | pcIndex
  | imm
  deriving DecidableEq, Repr

/-- The sixteen condition tests in the order of their codes (00_scope R16). -/
inductive Cond where
  | t | f | hi | ls | cc | cs | ne | eq | vc | vs | pl | mi | ge | lt | gt | le
  deriving DecidableEq, Repr

/-- The count of a register shift: 1..8 in the first word (0 means 8), or a data register (43 R269). -/
inductive ShiftCount where
  | imm (c : Reg)
  | reg (n : Reg)
  deriving DecidableEq, Repr

/-- Where the two operands of a `REG_REG` instruction are: `Dy,Dx` or `-(Ay),-(Ax)` (30_encoding R150). -/
inductive PairMode where
  | regs | predec
  deriving DecidableEq, Repr

/-- One constructor per row of the opcode table, in the table's order. -/
inductive Instr where
  | oriToCcr
  | oriToSr
  | ori (sz : Size) (dst : Ea)
  | andiToCcr
  | andiToSr
  | andi (sz : Size) (dst : Ea)
  | eoriToCcr
  | eoriToSr
  | eori (sz : Size) (dst : Ea)
  | subi (sz : Size) (dst : Ea)
  | addi (sz : Size) (dst : Ea)
  | cmpi (sz : Size) (dst : Ea)
  | btstImm (dst : Ea)
  | bchgImm (dst : Ea)
  | bclrImm (dst : Ea)
  | bsetImm (dst : Ea)
  | btstReg (n : Reg) (dst : Ea)
  | bchgReg (n : Reg) (dst : Ea)
  | bclrReg (n : Reg) (dst : Ea)
  | bsetReg (n : Reg) (dst : Ea)
  | movep (x : Reg) (toMem : Bool) (long : Bool) (y : Reg)
  | moveB (dst src : Ea)
  | moveW (dst src : Ea)
  | moveaW (n : Reg) (src : Ea)
  | moveL (dst src : Ea)
  | moveaL (n : Reg) (src : Ea)
  | negx (sz : Size) (dst : Ea)
  | moveFromSr (dst : Ea)
  | chk (n : Reg) (src : Ea)
  | lea (n : Reg) (src : Ea)
  | clr (sz : Size) (dst : Ea)
  | neg (sz : Size) (dst : Ea)
  | moveToCcr (src : Ea)
  | notOp (sz : Size) (dst : Ea)
  | moveToSr (src : Ea)
  | nbcd (dst : Ea)
  | swap (n : Reg)
  | pea (src : Ea)
  | extW (n : Reg)
  | extL (n : Reg)
  | movemToMem (long : Bool) (dst : Ea)
  | tst (sz : Size) (dst : Ea)
  | tas (dst : Ea)
  | movemToRegs (long : Bool) (src : Ea)
  | trap (v : Fin 16)
  | link (n : Reg)
  | unlk (n : Reg)
  | moveAnUsp (n : Reg)
  | moveUspAn (n : Reg)
  | reset
  | nop
  | stop
  | rte
  | rts
  | trapv
  | rtr
  | jsr (dst : Ea)
  | jmp (dst : Ea)
  | addq (q : Reg) (sz : Size) (dst : Ea)
  | subq (q : Reg) (sz : Size) (dst : Ea)
  | dbcc (c : Cond) (n : Reg)
  | scc (c : Cond) (dst : Ea)
  | bra (d : Byte)
  | bsr (d : Byte)
  | bcc (c : Cond) (d : Byte)
  | moveq (n : Reg) (d : Byte)
  | divu (n : Reg) (src : Ea)
  | divs (n : Reg) (src : Ea)
  | sbcd (x : Reg) (m : PairMode) (y : Reg)
  | orEaDn (n : Reg) (sz : Size) (src : Ea)
  | orDnEa (n : Reg) (sz : Size) (dst : Ea)
  | mulu (n : Reg) (src : Ea)
  | muls (n : Reg) (src : Ea)
  | abcd (x : Reg) (m : PairMode) (y : Reg)
  | exgDD (x y : Reg)
  | exgAA (x y : Reg)
  | exgDA (x y : Reg)
  | andEaDn (n : Reg) (sz : Size) (src : Ea)
  | andDnEa (n : Reg) (sz : Size) (dst : Ea)
  | subEaDn (n : Reg) (sz : Size) (src : Ea)
  | subDnEa (n : Reg) (sz : Size) (dst : Ea)
  | subaW (n : Reg) (src : Ea)
  | subaL (n : Reg) (src : Ea)
  | subx (x : Reg) (sz : Size) (m : PairMode) (y : Reg)
  | addEaDn (n : Reg) (sz : Size) (src : Ea)
  | addDnEa (n : Reg) (sz : Size) (dst : Ea)
  | addaW (n : Reg) (src : Ea)
  | addaL (n : Reg) (src : Ea)
  | addx (x : Reg) (sz : Size) (m : PairMode) (y : Reg)
  | cmp (n : Reg) (sz : Size) (src : Ea)
  | cmpaW (n : Reg) (src : Ea)
  | cmpaL (n : Reg) (src : Ea)
  | eor (n : Reg) (sz : Size) (dst : Ea)
  | cmpm (x : Reg) (sz : Size) (y : Reg)
  | asrReg (c : ShiftCount) (sz : Size) (n : Reg)
  | asrMem (dst : Ea)
  | aslReg (c : ShiftCount) (sz : Size) (n : Reg)
  | aslMem (dst : Ea)
  | lsrReg (c : ShiftCount) (sz : Size) (n : Reg)
  | lsrMem (dst : Ea)
  | lslReg (c : ShiftCount) (sz : Size) (n : Reg)
  | lslMem (dst : Ea)
  | roxrReg (c : ShiftCount) (sz : Size) (n : Reg)
  | roxrMem (dst : Ea)
  | roxlReg (c : ShiftCount) (sz : Size) (n : Reg)
  | roxlMem (dst : Ea)
  | rorReg (c : ShiftCount) (sz : Size) (n : Reg)
  | rorMem (dst : Ea)
  | rolReg (c : ShiftCount) (sz : Size) (n : Reg)
  | rolMem (dst : Ea)
  deriving DecidableEq, Repr

end Sys2Proof
end

