-- ==== Sys2Proof/WellFormed.lean ====
section
/-! DEFINITION. Which descriptors are instructions: the `allowed` lists and `byte_size_excludes` of the opcode table
(30_encoding R121), said through the addressing categories (30_encoding R124). -/

namespace Sys2Proof

/-- "data": every mode but `An` (30_encoding R124). -/
def Ea.isData : Ea → Bool
  | .an _ => false
  | _ => true

/-- "control" (30_encoding R124). -/
def Ea.isControl : Ea → Bool
  | .ind _ => true
  | .disp _ => true
  | .index _ => true
  | .absW => true
  | .absL => true
  | .pcDisp => true
  | .pcIndex => true
  | _ => false

/-- "alterable" (30_encoding R124). -/
def Ea.isAlterable : Ea → Bool
  | .pcDisp => false
  | .pcIndex => false
  | .imm => false
  | _ => true

/-- "data alterable" (30_encoding R124). -/
def Ea.isDataAlterable (e : Ea) : Bool := e.isAlterable && e.isData

/-- Neither `Dn` nor `An` (30_encoding R124 "memory"). -/
def Ea.isMemory : Ea → Bool
  | .dn _ => false
  | .an _ => false
  | _ => true

/-- "memory alterable" (30_encoding R124). -/
def Ea.isMemAlterable (e : Ea) : Bool := e.isAlterable && e.isMemory

/-- "control alterable" (30_encoding R124). -/
def Ea.isControlAlterable (e : Ea) : Bool := e.isControl && e.isAlterable

def Ea.isPredec : Ea → Bool
  | .predec _ => true
  | _ => false

def Ea.isPostinc : Ea → Bool
  | .postinc _ => true
  | _ => false

def Ea.isImm : Ea → Bool
  | .imm => true
  | _ => false

def Ea.isAn : Ea → Bool
  | .an _ => true
  | _ => false

/-- `byte_size_excludes: ["An"]` (30_encoding R121, R131). -/
def Ea.fitsSize (e : Ea) (sz : Size) : Bool := !(e.isAn && sz == .b)

/-- The destinations of a `MOVEM` store and the sources of a `MOVEM` load (40 R174, R175). -/
def Ea.isMovemStore (e : Ea) : Bool := e.isControlAlterable || e.isPredec
def Ea.isMovemLoad (e : Ea) : Bool := e.isControl || e.isPostinc

/-- `Bcc` has the conditions 2 to 15; 0 and 1 are `BRA` and `BSR` (46 R300). -/
def Cond.isBranch : Cond → Bool
  | .t => false
  | .f => false
  | _ => true

/-- An instruction of the opcode table. -/
def Instr.wf : Instr → Bool
  | .oriToCcr => true
  | .oriToSr => true
  | .ori _ dst => dst.isDataAlterable
  | .andiToCcr => true
  | .andiToSr => true
  | .andi _ dst => dst.isDataAlterable
  | .eoriToCcr => true
  | .eoriToSr => true
  | .eori _ dst => dst.isDataAlterable
  | .subi _ dst => dst.isDataAlterable
  | .addi _ dst => dst.isDataAlterable
  | .cmpi _ dst => dst.isDataAlterable
  | .btstImm dst => dst.isData && !dst.isImm
  | .bchgImm dst => dst.isDataAlterable
  | .bclrImm dst => dst.isDataAlterable
  | .bsetImm dst => dst.isDataAlterable
  | .btstReg _ dst => dst.isData
  | .bchgReg _ dst => dst.isDataAlterable
  | .bclrReg _ dst => dst.isDataAlterable
  | .bsetReg _ dst => dst.isDataAlterable
  | .movep _ _ _ _ => true
  | .moveB dst src => dst.isDataAlterable && src.fitsSize .b
  | .moveW dst _ => dst.isDataAlterable
  | .moveaW _ _ => true
  | .moveL dst _ => dst.isDataAlterable
  | .moveaL _ _ => true
  | .negx _ dst => dst.isDataAlterable
  | .moveFromSr dst => dst.isDataAlterable
  | .chk _ src => src.isData
  | .lea _ src => src.isControl
  | .clr _ dst => dst.isDataAlterable
  | .neg _ dst => dst.isDataAlterable
  | .moveToCcr src => src.isData
  | .notOp _ dst => dst.isDataAlterable
  | .moveToSr src => src.isData
  | .nbcd dst => dst.isDataAlterable
  | .swap _ => true
  | .pea src => src.isControl
  | .extW _ => true
  | .extL _ => true
  | .movemToMem _ dst => dst.isMovemStore
  | .tst _ dst => dst.isDataAlterable
  | .tas dst => dst.isDataAlterable
  | .movemToRegs _ src => src.isMovemLoad
  | .trap _ => true
  | .link _ => true
  | .unlk _ => true
  | .moveAnUsp _ => true
  | .moveUspAn _ => true
  | .reset => true
  | .nop => true
  | .stop => true
  | .rte => true
  | .rts => true
  | .trapv => true
  | .rtr => true
  | .jsr dst => dst.isControl
  | .jmp dst => dst.isControl
  | .addq _ sz dst => dst.isAlterable && dst.fitsSize sz
  | .subq _ sz dst => dst.isAlterable && dst.fitsSize sz
  | .dbcc _ _ => true
  | .scc _ dst => dst.isDataAlterable
  | .bra _ => true
  | .bsr _ => true
  | .bcc c _ => c.isBranch
  | .moveq _ _ => true
  | .divu _ src => src.isData
  | .divs _ src => src.isData
  | .sbcd _ _ _ => true
  | .orEaDn _ _ src => src.isData
  | .orDnEa _ _ dst => dst.isMemAlterable
  | .mulu _ src => src.isData
  | .muls _ src => src.isData
  | .abcd _ _ _ => true
  | .exgDD _ _ => true
  | .exgAA _ _ => true
  | .exgDA _ _ => true
  | .andEaDn _ _ src => src.isData
  | .andDnEa _ _ dst => dst.isMemAlterable
  | .subEaDn _ sz src => src.fitsSize sz
  | .subDnEa _ _ dst => dst.isMemAlterable
  | .subaW _ _ => true
  | .subaL _ _ => true
  | .subx _ _ _ _ => true
  | .addEaDn _ sz src => src.fitsSize sz
  | .addDnEa _ _ dst => dst.isMemAlterable
  | .addaW _ _ => true
  | .addaL _ _ => true
  | .addx _ _ _ _ => true
  | .cmp _ sz src => src.fitsSize sz
  | .cmpaW _ _ => true
  | .cmpaL _ _ => true
  | .eor _ _ dst => dst.isDataAlterable
  | .cmpm _ _ _ => true
  | .asrReg _ _ _ => true
  | .asrMem dst => dst.isMemAlterable
  | .aslReg _ _ _ => true
  | .aslMem dst => dst.isMemAlterable
  | .lsrReg _ _ _ => true
  | .lsrMem dst => dst.isMemAlterable
  | .lslReg _ _ _ => true
  | .lslMem dst => dst.isMemAlterable
  | .roxrReg _ _ _ => true
  | .roxrMem dst => dst.isMemAlterable
  | .roxlReg _ _ _ => true
  | .roxlMem dst => dst.isMemAlterable
  | .rorReg _ _ _ => true
  | .rorMem dst => dst.isMemAlterable
  | .rolReg _ _ _ => true
  | .rolMem dst => dst.isMemAlterable

/-- The rows of the table marked `privileged` (47 R329). -/
def Instr.privileged : Instr → Bool
  | .oriToSr => true
  | .andiToSr => true
  | .eoriToSr => true
  | .moveToSr _ => true
  | .moveAnUsp _ => true
  | .moveUspAn _ => true
  | .reset => true
  | .stop => true
  | .rte => true
  | _ => false

end Sys2Proof
end

