-- ==== Sys2Proof/Decode.lean ====
section
/-! DEFINITION. The decoder, total on every first word and on any bytes, rejecting by name, as the opcode table's own
rows (30_encoding R121): a row is a mask, a match and the reading of its fields; and after it the encoder, from the
same formats (30_encoding R150). Also the indexed extension word (30_encoding R141) and the host's `decodeTableWord`. -/

namespace Sys2Proof

/-- Why a word or bytes decode to no instruction. -/
inductive DecodeError where
  /-- The first word matches no row of the opcode table (30_encoding R121, R153). -/
  | decodeMiss
  /-- Fewer than two bytes: no first word. -/
  | truncated
  deriving DecidableEq, Repr

/-! ## Fields -/

/-- `w[lo+n-1 : lo]` (00_scope R9). -/
def fieldAt (w : Half) (lo n : Nat) : Nat := w.toNat / 2 ^ lo % 2 ^ n

/-- A 3-bit register field (30_encoding R125). -/
def regAt (w : Half) (lo : Nat) : Reg := Fin.ofNat 8 (fieldAt w lo 3)

/-- The size field in bits 7:6 (30_encoding R122). -/
def sizeAt (w : Half) : Option Size :=
  match fieldAt w 6 2 with
  | 0 => some .b
  | 1 => some .w
  | 2 => some .l
  | _ => none

/-- The twelve modes (30_encoding R123); 111 101, 111 110 and 111 111 are reserved. -/
def eaOf (mode : Nat) (r : Reg) : Option Ea :=
  match mode with
  | 0 => some (.dn r)
  | 1 => some (.an r)
  | 2 => some (.ind r)
  | 3 => some (.postinc r)
  | 4 => some (.predec r)
  | 5 => some (.disp r)
  | 6 => some (.index r)
  | _ =>
    match r.val with
    | 0 => some .absW
    | 1 => some .absL
    | 2 => some .pcDisp
    | 3 => some .pcIndex
    | 4 => some .imm
    | _ => none

/-- The effective-address field in bits 5:0, if its mode is allowed. -/
def eaAt (allowed : Ea → Bool) (w : Half) : Option Ea :=
  match eaOf (fieldAt w 3 3) (regAt w 0) with
  | some e => if allowed e then some e else none
  | none => none

/-- The destination field of `MOVE` in bits 11:6, mode and register in the opposite order (30_encoding R123). -/
def eaDstAt (allowed : Ea → Bool) (w : Half) : Option Ea :=
  match eaOf (fieldAt w 6 3) (regAt w 9) with
  | some e => if allowed e then some e else none
  | none => none

/-- The sixteen condition codes (00_scope R16). -/
def condOf (n : Nat) : Cond :=
  match n with
  | 0 => .t | 1 => .f | 2 => .hi | 3 => .ls | 4 => .cc | 5 => .cs | 6 => .ne | 7 => .eq
  | 8 => .vc | 9 => .vs | 10 => .pl | 11 => .mi | 12 => .ge | 13 => .lt | 14 => .gt | _ => .le

def condAt (w : Half) : Cond := condOf (fieldAt w 8 4)

def byteAt (w : Half) : Byte := BitVec.ofNat 8 w.toNat

def pairAt (w : Half) : PairMode := if fieldAt w 3 1 = 0 then .regs else .predec

/-- The count field and the immediate-or-register bit of a register shift (43 R269). -/
def countAt (w : Half) : ShiftCount := if fieldAt w 5 1 = 0 then .imm (regAt w 9) else .reg (regAt w 9)

/-! ## Rows -/

/-- A row of the opcode table: it reads `w` when `(w & mask) = mtch` and `read` accepts the fields. -/
structure Row where
  mtch : Half
  mask : Half
  read : Half → Option Instr

def Row.decode (r : Row) (w : Half) : Option Instr := if w &&& r.mask = r.mtch then r.read w else none

/-- `sz, <ea>` -/
def readSizeEa (k : Size → Ea → Instr) (allowed : Ea → Bool) (w : Half) : Option Instr :=
  match sizeAt w, eaAt allowed w with
  | some sz, some e => some (k sz e)
  | _, _ => none

/-- `<ea>` -/
def readOneEa (k : Ea → Instr) (allowed : Ea → Bool) (w : Half) : Option Instr := (eaAt allowed w).map k

/-- A register in bits 11:9 and `<ea>` -/
def readRegEa (k : Reg → Ea → Instr) (allowed : Ea → Bool) (w : Half) : Option Instr :=
  (eaAt allowed w).map (k (regAt w 9))

/-- A register in bits 11:9, a size and `<ea>`, whose allowed modes may depend on the size -/
def readRegSizeEa (k : Reg → Size → Ea → Instr) (allowed : Size → Ea → Bool) (w : Half) : Option Instr :=
  match sizeAt w with
  | some sz => (eaAt (allowed sz) w).map (k (regAt w 9) sz)
  | none => none

/-- `MOVE`: destination in bits 11:6, source in bits 5:0 -/
def readMove (k : Ea → Ea → Instr) (src : Ea → Bool) (w : Half) : Option Instr :=
  match eaDstAt Ea.isDataAlterable w, eaAt src w with
  | some d, some e => some (k d e)
  | _, _ => none

/-- A shift of a register (43 R269) -/
def readShift (k : ShiftCount → Size → Reg → Instr) (w : Half) : Option Instr :=
  (sizeAt w).map (fun sz => k (countAt w) sz (regAt w 0))

/-- A register in bits 11:9, a size, a pair mode and a register in bits 2:0 -/
def readPairSize (k : Reg → Size → PairMode → Reg → Instr) (w : Half) : Option Instr :=
  (sizeAt w).map (fun sz => k (regAt w 9) sz (pairAt w) (regAt w 0))

def anyEa : Ea → Bool := fun _ => true

/-- The rows of each line (the top four bits of the first word, 30_encoding R151). -/
def rowsOfLine (line : Nat) : List Row :=
  match line with
  | 0 => [
    ⟨0x003C, 0xFFFF, fun _ => some .oriToCcr⟩,
    ⟨0x007C, 0xFFFF, fun _ => some .oriToSr⟩,
    ⟨0x0000, 0xFF00, readSizeEa .ori Ea.isDataAlterable⟩,
    ⟨0x023C, 0xFFFF, fun _ => some .andiToCcr⟩,
    ⟨0x027C, 0xFFFF, fun _ => some .andiToSr⟩,
    ⟨0x0200, 0xFF00, readSizeEa .andi Ea.isDataAlterable⟩,
    ⟨0x0A3C, 0xFFFF, fun _ => some .eoriToCcr⟩,
    ⟨0x0A7C, 0xFFFF, fun _ => some .eoriToSr⟩,
    ⟨0x0A00, 0xFF00, readSizeEa .eori Ea.isDataAlterable⟩,
    ⟨0x0400, 0xFF00, readSizeEa .subi Ea.isDataAlterable⟩,
    ⟨0x0600, 0xFF00, readSizeEa .addi Ea.isDataAlterable⟩,
    ⟨0x0C00, 0xFF00, readSizeEa .cmpi Ea.isDataAlterable⟩,
    ⟨0x0800, 0xFFC0, readOneEa .btstImm (fun e => e.isData && !e.isImm)⟩,
    ⟨0x0840, 0xFFC0, readOneEa .bchgImm Ea.isDataAlterable⟩,
    ⟨0x0880, 0xFFC0, readOneEa .bclrImm Ea.isDataAlterable⟩,
    ⟨0x08C0, 0xFFC0, readOneEa .bsetImm Ea.isDataAlterable⟩,
    ⟨0x0100, 0xF1C0, readRegEa .btstReg Ea.isData⟩,
    ⟨0x0140, 0xF1C0, readRegEa .bchgReg Ea.isDataAlterable⟩,
    ⟨0x0180, 0xF1C0, readRegEa .bclrReg Ea.isDataAlterable⟩,
    ⟨0x01C0, 0xF1C0, readRegEa .bsetReg Ea.isDataAlterable⟩,
    ⟨0x0108, 0xF138, fun w => some (.movep (regAt w 9) (fieldAt w 7 1 == 1) (fieldAt w 6 1 == 1) (regAt w 0))⟩]
  | 1 => [⟨0x1000, 0xF000, readMove .moveB (fun e => e.fitsSize .b)⟩]
  | 2 => [
    ⟨0x2000, 0xF000, readMove .moveL anyEa⟩,
    ⟨0x2040, 0xF1C0, readRegEa .moveaL anyEa⟩]
  | 3 => [
    ⟨0x3000, 0xF000, readMove .moveW anyEa⟩,
    ⟨0x3040, 0xF1C0, readRegEa .moveaW anyEa⟩]
  | 4 => [
    ⟨0x4000, 0xFF00, readSizeEa .negx Ea.isDataAlterable⟩,
    ⟨0x40C0, 0xFFC0, readOneEa .moveFromSr Ea.isDataAlterable⟩,
    ⟨0x4180, 0xF1C0, readRegEa .chk Ea.isData⟩,
    ⟨0x41C0, 0xF1C0, readRegEa .lea Ea.isControl⟩,
    ⟨0x4200, 0xFF00, readSizeEa .clr Ea.isDataAlterable⟩,
    ⟨0x4400, 0xFF00, readSizeEa .neg Ea.isDataAlterable⟩,
    ⟨0x44C0, 0xFFC0, readOneEa .moveToCcr Ea.isData⟩,
    ⟨0x4600, 0xFF00, readSizeEa .notOp Ea.isDataAlterable⟩,
    ⟨0x46C0, 0xFFC0, readOneEa .moveToSr Ea.isData⟩,
    ⟨0x4800, 0xFFC0, readOneEa .nbcd Ea.isDataAlterable⟩,
    ⟨0x4840, 0xFFF8, fun w => some (.swap (regAt w 0))⟩,
    ⟨0x4840, 0xFFC0, readOneEa .pea Ea.isControl⟩,
    ⟨0x4880, 0xFFF8, fun w => some (.extW (regAt w 0))⟩,
    ⟨0x48C0, 0xFFF8, fun w => some (.extL (regAt w 0))⟩,
    ⟨0x4880, 0xFF80, fun w => readOneEa (.movemToMem (fieldAt w 6 1 == 1)) Ea.isMovemStore w⟩,
    ⟨0x4A00, 0xFF00, readSizeEa .tst Ea.isDataAlterable⟩,
    ⟨0x4AC0, 0xFFC0, readOneEa .tas Ea.isDataAlterable⟩,
    ⟨0x4C80, 0xFF80, fun w => readOneEa (.movemToRegs (fieldAt w 6 1 == 1)) Ea.isMovemLoad w⟩,
    ⟨0x4E40, 0xFFF0, fun w => some (.trap (Fin.ofNat 16 (fieldAt w 0 4)))⟩,
    ⟨0x4E50, 0xFFF8, fun w => some (.link (regAt w 0))⟩,
    ⟨0x4E58, 0xFFF8, fun w => some (.unlk (regAt w 0))⟩,
    ⟨0x4E60, 0xFFF8, fun w => some (.moveAnUsp (regAt w 0))⟩,
    ⟨0x4E68, 0xFFF8, fun w => some (.moveUspAn (regAt w 0))⟩,
    ⟨0x4E70, 0xFFFF, fun _ => some .reset⟩,
    ⟨0x4E71, 0xFFFF, fun _ => some .nop⟩,
    ⟨0x4E72, 0xFFFF, fun _ => some .stop⟩,
    ⟨0x4E73, 0xFFFF, fun _ => some .rte⟩,
    ⟨0x4E75, 0xFFFF, fun _ => some .rts⟩,
    ⟨0x4E76, 0xFFFF, fun _ => some .trapv⟩,
    ⟨0x4E77, 0xFFFF, fun _ => some .rtr⟩,
    ⟨0x4E80, 0xFFC0, readOneEa .jsr Ea.isControl⟩,
    ⟨0x4EC0, 0xFFC0, readOneEa .jmp Ea.isControl⟩]
  | 5 => [
    ⟨0x5000, 0xF100, readRegSizeEa .addq (fun sz e => e.isAlterable && e.fitsSize sz)⟩,
    ⟨0x5100, 0xF100, readRegSizeEa .subq (fun sz e => e.isAlterable && e.fitsSize sz)⟩,
    ⟨0x50C8, 0xF0F8, fun w => some (.dbcc (condAt w) (regAt w 0))⟩,
    ⟨0x50C0, 0xF0C0, fun w => readOneEa (.scc (condAt w)) Ea.isDataAlterable w⟩]
  | 6 => [
    ⟨0x6000, 0xFF00, fun w => some (.bra (byteAt w))⟩,
    ⟨0x6100, 0xFF00, fun w => some (.bsr (byteAt w))⟩,
    ⟨0x6000, 0xF000, fun w => if w &&& 0xFE00 = 0x6000 then none else some (.bcc (condAt w) (byteAt w))⟩]
  | 7 => [⟨0x7000, 0xF100, fun w => some (.moveq (regAt w 9) (byteAt w))⟩]
  | 8 => [
    ⟨0x80C0, 0xF1C0, readRegEa .divu Ea.isData⟩,
    ⟨0x81C0, 0xF1C0, readRegEa .divs Ea.isData⟩,
    ⟨0x8100, 0xF1F0, fun w => some (.sbcd (regAt w 9) (pairAt w) (regAt w 0))⟩,
    ⟨0x8000, 0xF100, readRegSizeEa .orEaDn (fun _ => Ea.isData)⟩,
    ⟨0x8100, 0xF100, readRegSizeEa .orDnEa (fun _ => Ea.isMemAlterable)⟩]
  | 9 => [
    ⟨0x9000, 0xF100, readRegSizeEa .subEaDn (fun sz e => e.fitsSize sz)⟩,
    ⟨0x9100, 0xF100, readRegSizeEa .subDnEa (fun _ => Ea.isMemAlterable)⟩,
    ⟨0x90C0, 0xF1C0, readRegEa .subaW anyEa⟩,
    ⟨0x91C0, 0xF1C0, readRegEa .subaL anyEa⟩,
    ⟨0x9100, 0xF130, readPairSize .subx⟩]
  | 11 => [
    ⟨0xB000, 0xF100, readRegSizeEa .cmp (fun sz e => e.fitsSize sz)⟩,
    ⟨0xB0C0, 0xF1C0, readRegEa .cmpaW anyEa⟩,
    ⟨0xB1C0, 0xF1C0, readRegEa .cmpaL anyEa⟩,
    ⟨0xB100, 0xF100, readRegSizeEa .eor (fun _ => Ea.isDataAlterable)⟩,
    ⟨0xB108, 0xF138, fun w => (sizeAt w).map (fun sz => .cmpm (regAt w 9) sz (regAt w 0))⟩]
  | 12 => [
    ⟨0xC0C0, 0xF1C0, readRegEa .mulu Ea.isData⟩,
    ⟨0xC1C0, 0xF1C0, readRegEa .muls Ea.isData⟩,
    ⟨0xC100, 0xF1F0, fun w => some (.abcd (regAt w 9) (pairAt w) (regAt w 0))⟩,
    ⟨0xC140, 0xF1F8, fun w => some (.exgDD (regAt w 9) (regAt w 0))⟩,
    ⟨0xC148, 0xF1F8, fun w => some (.exgAA (regAt w 9) (regAt w 0))⟩,
    ⟨0xC188, 0xF1F8, fun w => some (.exgDA (regAt w 9) (regAt w 0))⟩,
    ⟨0xC000, 0xF100, readRegSizeEa .andEaDn (fun _ => Ea.isData)⟩,
    ⟨0xC100, 0xF100, readRegSizeEa .andDnEa (fun _ => Ea.isMemAlterable)⟩]
  | 13 => [
    ⟨0xD000, 0xF100, readRegSizeEa .addEaDn (fun sz e => e.fitsSize sz)⟩,
    ⟨0xD100, 0xF100, readRegSizeEa .addDnEa (fun _ => Ea.isMemAlterable)⟩,
    ⟨0xD0C0, 0xF1C0, readRegEa .addaW anyEa⟩,
    ⟨0xD1C0, 0xF1C0, readRegEa .addaL anyEa⟩,
    ⟨0xD100, 0xF130, readPairSize .addx⟩]
  | 14 => [
    ⟨0xE000, 0xF118, readShift .asrReg⟩,
    ⟨0xE0C0, 0xFFC0, readOneEa .asrMem Ea.isMemAlterable⟩,
    ⟨0xE100, 0xF118, readShift .aslReg⟩,
    ⟨0xE1C0, 0xFFC0, readOneEa .aslMem Ea.isMemAlterable⟩,
    ⟨0xE008, 0xF118, readShift .lsrReg⟩,
    ⟨0xE2C0, 0xFFC0, readOneEa .lsrMem Ea.isMemAlterable⟩,
    ⟨0xE108, 0xF118, readShift .lslReg⟩,
    ⟨0xE3C0, 0xFFC0, readOneEa .lslMem Ea.isMemAlterable⟩,
    ⟨0xE010, 0xF118, readShift .roxrReg⟩,
    ⟨0xE4C0, 0xFFC0, readOneEa .roxrMem Ea.isMemAlterable⟩,
    ⟨0xE110, 0xF118, readShift .roxlReg⟩,
    ⟨0xE5C0, 0xFFC0, readOneEa .roxlMem Ea.isMemAlterable⟩,
    ⟨0xE018, 0xF118, readShift .rorReg⟩,
    ⟨0xE6C0, 0xFFC0, readOneEa .rorMem Ea.isMemAlterable⟩,
    ⟨0xE118, 0xF118, readShift .rolReg⟩,
    ⟨0xE7C0, 0xFFC0, readOneEa .rolMem Ea.isMemAlterable⟩]
  | _ => []

/-- The first row of a list that reads the word; no word matches two rows (30_encoding R121). -/
def firstRow (w : Half) : List Row → Option Instr
  | [] => none
  | r :: rest =>
    match r.decode w with
    | some i => some i
    | none => firstRow w rest

/-- `decodeInstruction` (30_encoding R120, R121): the row the first word matches, or a decode-miss. -/
def decode (w : Half) : Except DecodeError Instr :=
  match firstRow w (rowsOfLine (fieldAt w 12 4)) with
  | some i => .ok i
  | none => .error .decodeMiss

/-- Decoding bytes as the bus stores them, the first word's high byte first (30_encoding R120), with the bytes left. -/
def decodeBytes (bytes : List Byte) : Except DecodeError (Instr × List Byte) :=
  match bytes with
  | hi :: lo :: rest =>
    match decode (hi ++ lo) with
    | .ok i => .ok (i, rest)
    | .error e => .error e
  | _ => .error .truncated

/-! ## The encoder -/

def sizeCode : Size → Nat
  | .b => 0
  | .w => 1
  | .l => 2

/-- Mode and register of an effective-address field (30_encoding R123). -/
def eaMode : Ea → Nat
  | .dn _ => 0
  | .an _ => 1
  | .ind _ => 2
  | .postinc _ => 3
  | .predec _ => 4
  | .disp _ => 5
  | .index _ => 6
  | _ => 7

def eaReg : Ea → Nat
  | .dn n => n.val
  | .an n => n.val
  | .ind n => n.val
  | .postinc n => n.val
  | .predec n => n.val
  | .disp n => n.val
  | .index n => n.val
  | .absW => 0
  | .absL => 1
  | .pcDisp => 2
  | .pcIndex => 3
  | .imm => 4

def eaCode (e : Ea) : Nat := eaMode e * 8 + eaReg e

/-- The destination field of `MOVE`, register above mode (30_encoding R123). -/
def eaDstCode (e : Ea) : Nat := eaReg e * 512 + eaMode e * 64

def condCode : Cond → Nat
  | .t => 0 | .f => 1 | .hi => 2 | .ls => 3 | .cc => 4 | .cs => 5 | .ne => 6 | .eq => 7
  | .vc => 8 | .vs => 9 | .pl => 10 | .mi => 11 | .ge => 12 | .lt => 13 | .gt => 14 | .le => 15

def pairCode : PairMode → Nat
  | .regs => 0
  | .predec => 8

def countCode : ShiftCount → Nat
  | .imm c => c.val * 512
  | .reg n => n.val * 512 + 32

def bitCode (b : Bool) (at_ : Nat) : Nat := if b then 2 ^ at_ else 0

def encSizeEa (pat : Nat) (sz : Size) (e : Ea) : Half := BitVec.ofNat 16 (pat + sizeCode sz * 64 + eaCode e)
def encEa (pat : Nat) (e : Ea) : Half := BitVec.ofNat 16 (pat + eaCode e)
def encRegEa (pat : Nat) (n : Reg) (e : Ea) : Half := BitVec.ofNat 16 (pat + n.val * 512 + eaCode e)
def encRegSizeEa (pat : Nat) (n : Reg) (sz : Size) (e : Ea) : Half :=
  BitVec.ofNat 16 (pat + n.val * 512 + sizeCode sz * 64 + eaCode e)
def encMove (pat : Nat) (d e : Ea) : Half := BitVec.ofNat 16 (pat + eaDstCode d + eaCode e)
def encReg (pat : Nat) (n : Reg) : Half := BitVec.ofNat 16 (pat + n.val)
def encRegReg (pat : Nat) (x y : Reg) : Half := BitVec.ofNat 16 (pat + x.val * 512 + y.val)
def encPair (pat : Nat) (x : Reg) (m : PairMode) (y : Reg) : Half :=
  BitVec.ofNat 16 (pat + x.val * 512 + pairCode m + y.val)
def encPairSize (pat : Nat) (x : Reg) (sz : Size) (m : PairMode) (y : Reg) : Half :=
  BitVec.ofNat 16 (pat + x.val * 512 + sizeCode sz * 64 + pairCode m + y.val)
def encShift (pat : Nat) (c : ShiftCount) (sz : Size) (n : Reg) : Half :=
  BitVec.ofNat 16 (pat + countCode c + sizeCode sz * 64 + n.val)

/-- The first word of an instruction, by its format (30_encoding R150). The extension words are not part of the
descriptor: they are fetched as the instruction executes. -/
def encode : Instr → Half
  | .oriToCcr => 0x003C
  | .oriToSr => 0x007C
  | .ori sz e => encSizeEa 0x0000 sz e
  | .andiToCcr => 0x023C
  | .andiToSr => 0x027C
  | .andi sz e => encSizeEa 0x0200 sz e
  | .eoriToCcr => 0x0A3C
  | .eoriToSr => 0x0A7C
  | .eori sz e => encSizeEa 0x0A00 sz e
  | .subi sz e => encSizeEa 0x0400 sz e
  | .addi sz e => encSizeEa 0x0600 sz e
  | .cmpi sz e => encSizeEa 0x0C00 sz e
  | .btstImm e => encEa 0x0800 e
  | .bchgImm e => encEa 0x0840 e
  | .bclrImm e => encEa 0x0880 e
  | .bsetImm e => encEa 0x08C0 e
  | .btstReg n e => encRegEa 0x0100 n e
  | .bchgReg n e => encRegEa 0x0140 n e
  | .bclrReg n e => encRegEa 0x0180 n e
  | .bsetReg n e => encRegEa 0x01C0 n e
  | .movep x toMem long y => BitVec.ofNat 16 (0x0108 + x.val * 512 + bitCode toMem 7 + bitCode long 6 + y.val)
  | .moveB d e => encMove 0x1000 d e
  | .moveW d e => encMove 0x3000 d e
  | .moveaW n e => encRegEa 0x3040 n e
  | .moveL d e => encMove 0x2000 d e
  | .moveaL n e => encRegEa 0x2040 n e
  | .negx sz e => encSizeEa 0x4000 sz e
  | .moveFromSr e => encEa 0x40C0 e
  | .chk n e => encRegEa 0x4180 n e
  | .lea n e => encRegEa 0x41C0 n e
  | .clr sz e => encSizeEa 0x4200 sz e
  | .neg sz e => encSizeEa 0x4400 sz e
  | .moveToCcr e => encEa 0x44C0 e
  | .notOp sz e => encSizeEa 0x4600 sz e
  | .moveToSr e => encEa 0x46C0 e
  | .nbcd e => encEa 0x4800 e
  | .swap n => encReg 0x4840 n
  | .pea e => encEa 0x4840 e
  | .extW n => encReg 0x4880 n
  | .extL n => encReg 0x48C0 n
  | .movemToMem long e => BitVec.ofNat 16 (0x4880 + bitCode long 6 + eaCode e)
  | .tst sz e => encSizeEa 0x4A00 sz e
  | .tas e => encEa 0x4AC0 e
  | .movemToRegs long e => BitVec.ofNat 16 (0x4C80 + bitCode long 6 + eaCode e)
  | .trap v => BitVec.ofNat 16 (0x4E40 + v.val)
  | .link n => encReg 0x4E50 n
  | .unlk n => encReg 0x4E58 n
  | .moveAnUsp n => encReg 0x4E60 n
  | .moveUspAn n => encReg 0x4E68 n
  | .reset => 0x4E70
  | .nop => 0x4E71
  | .stop => 0x4E72
  | .rte => 0x4E73
  | .rts => 0x4E75
  | .trapv => 0x4E76
  | .rtr => 0x4E77
  | .jsr e => encEa 0x4E80 e
  | .jmp e => encEa 0x4EC0 e
  | .addq q sz e => encRegSizeEa 0x5000 q sz e
  | .subq q sz e => encRegSizeEa 0x5100 q sz e
  | .dbcc c n => BitVec.ofNat 16 (0x50C8 + condCode c * 256 + n.val)
  | .scc c e => BitVec.ofNat 16 (0x50C0 + condCode c * 256 + eaCode e)
  | .bra d => BitVec.ofNat 16 (0x6000 + d.toNat)
  | .bsr d => BitVec.ofNat 16 (0x6100 + d.toNat)
  | .bcc c d => BitVec.ofNat 16 (0x6000 + condCode c * 256 + d.toNat)
  | .moveq n d => BitVec.ofNat 16 (0x7000 + n.val * 512 + d.toNat)
  | .divu n e => encRegEa 0x80C0 n e
  | .divs n e => encRegEa 0x81C0 n e
  | .sbcd x m y => encPair 0x8100 x m y
  | .orEaDn n sz e => encRegSizeEa 0x8000 n sz e
  | .orDnEa n sz e => encRegSizeEa 0x8100 n sz e
  | .mulu n e => encRegEa 0xC0C0 n e
  | .muls n e => encRegEa 0xC1C0 n e
  | .abcd x m y => encPair 0xC100 x m y
  | .exgDD x y => encRegReg 0xC140 x y
  | .exgAA x y => encRegReg 0xC148 x y
  | .exgDA x y => encRegReg 0xC188 x y
  | .andEaDn n sz e => encRegSizeEa 0xC000 n sz e
  | .andDnEa n sz e => encRegSizeEa 0xC100 n sz e
  | .subEaDn n sz e => encRegSizeEa 0x9000 n sz e
  | .subDnEa n sz e => encRegSizeEa 0x9100 n sz e
  | .subaW n e => encRegEa 0x90C0 n e
  | .subaL n e => encRegEa 0x91C0 n e
  | .subx x sz m y => encPairSize 0x9100 x sz m y
  | .addEaDn n sz e => encRegSizeEa 0xD000 n sz e
  | .addDnEa n sz e => encRegSizeEa 0xD100 n sz e
  | .addaW n e => encRegEa 0xD0C0 n e
  | .addaL n e => encRegEa 0xD1C0 n e
  | .addx x sz m y => encPairSize 0xD100 x sz m y
  | .cmp n sz e => encRegSizeEa 0xB000 n sz e
  | .cmpaW n e => encRegEa 0xB0C0 n e
  | .cmpaL n e => encRegEa 0xB1C0 n e
  | .eor n sz e => encRegSizeEa 0xB100 n sz e
  | .cmpm x sz y => BitVec.ofNat 16 (0xB108 + x.val * 512 + sizeCode sz * 64 + y.val)
  | .asrReg c sz n => encShift 0xE000 c sz n
  | .asrMem e => encEa 0xE0C0 e
  | .aslReg c sz n => encShift 0xE100 c sz n
  | .aslMem e => encEa 0xE1C0 e
  | .lsrReg c sz n => encShift 0xE008 c sz n
  | .lsrMem e => encEa 0xE2C0 e
  | .lslReg c sz n => encShift 0xE108 c sz n
  | .lslMem e => encEa 0xE3C0 e
  | .roxrReg c sz n => encShift 0xE010 c sz n
  | .roxrMem e => encEa 0xE4C0 e
  | .roxlReg c sz n => encShift 0xE110 c sz n
  | .roxlMem e => encEa 0xE5C0 e
  | .rorReg c sz n => encShift 0xE018 c sz n
  | .rorMem e => encEa 0xE6C0 e
  | .rolReg c sz n => encShift 0xE118 c sz n
  | .rolMem e => encEa 0xE7C0 e

/-! ## The indexed extension word (30_encoding R141) -/

/-- Bits 8:0 of an indexed extension word: brief format, or full format with every field it has. -/
inductive IndexTail where
  | brief (disp : Byte)
  | full (bs is : Bool) (bdSize : Fin 4) (bit3 : Bool) (iis : Fin 8)
  deriving DecidableEq, Repr

/-- An indexed extension word, bit by bit (30_encoding R141). -/
structure IndexWord where
  /-- Bit 15: the index register is an address register. -/
  addrReg : Bool
  /-- Bits 14:12. -/
  reg : Reg
  /-- Bit 11: all 32 bits of the index register. -/
  long : Bool
  /-- Bits 10:9: the index is multiplied by 1, 2, 4 or 8. -/
  scale : Fin 4
  tail : IndexTail
  deriving DecidableEq, Repr

def decodeIndexTail (w : Half) : IndexTail :=
  if fieldAt w 8 1 = 0 then .brief (byteAt w)
  else .full (fieldAt w 7 1 == 1) (fieldAt w 6 1 == 1) (Fin.ofNat 4 (fieldAt w 4 2)) (fieldAt w 3 1 == 1) (regAt w 0)

def decodeIndex (w : Half) : IndexWord where
  addrReg := fieldAt w 15 1 == 1
  reg := regAt w 12
  long := fieldAt w 11 1 == 1
  scale := Fin.ofNat 4 (fieldAt w 9 2)
  tail := decodeIndexTail w

def encodeIndexTail : IndexTail → Nat
  | .brief d => d.toNat
  | .full bs is bd b3 iis => 256 + bitCode bs 7 + bitCode is 6 + bd.val * 16 + bitCode b3 3 + iis.val

def encodeIndex (x : IndexWord) : Half :=
  BitVec.ofNat 16 (bitCode x.addrReg 15 + x.reg.val * 4096 + bitCode x.long 11 + x.scale.val * 512
    + encodeIndexTail x.tail)

/-! ## The host's reading of a table word -/

/-- The longest admitted instruction has seven words (30_encoding R120). -/
def maxWords : Nat := 7

/-- Words `k, k+1, ...` of an instruction whose bits are `w`, bit 0 the least significant bit of the first word. -/
def wordsOf (w : Nat) : Nat → List Half
  | 0 => []
  | k + 1 => BitVec.ofNat 16 w :: wordsOf (w / 2 ^ 16) k

/-- The bytes of the words as the bus stores them: high byte first (20_memory R90). -/
def bytesOf : List Half → List Byte
  | [] => []
  | h :: rest => BitVec.ofNat 8 (h.toNat / 2 ^ 8) :: BitVec.ofNat 8 h.toNat :: bytesOf rest

/-- The seven words of a table row's word: its `nbits` bits, every bit above them zero. -/
def tableBytes (nbits w : Nat) : List Byte := bytesOf (wordsOf (w % 2 ^ nbits) maxWords)

/-- The instruction the decoder reads from a table row's word (the host's numbering of bits). -/
def decodeTableWord (nbits w : Nat) : Option Instr :=
  match decodeBytes (tableBytes nbits w) with
  | .ok (i, _) => some i
  | .error _ => none

end Sys2Proof
end

