-- ==== Sys2Proof/Config.lean ====
section
/-! DEFINITION. What an implementation fixes (00_scope R8) and the free values (00_scope R19 "any value").
Constants the spec gives are plain definitions; the OPEN parameters are the fields of `Params`, which State holds as
plain data so that a claim over all states holds for every value (log 9); the free values are constants with no body
(log 2), and so is `MIX` (log 10). -/

namespace Sys2Proof.Config

/-- `ADDR_MASK` keeps 24 address bits (20_memory R82). -/
def addrBits : Nat := 24

/-- `RAM_BASE` is 0; `RAM_SIZE` is 8 MiB (10_state R38). -/
def ramSize : Nat := 0x800000

/-- `IMAGE_BASE` (64 R621). -/
def imageBase : Nat := 0x1000

/-- `SYS_CLOCK_HZ` (00_scope R8). -/
def sysClockHz : Nat := 32000000

/-- `PSG_CLOCK_HZ` (62 R520). -/
def psgClockHz : Nat := 2000000

/-- `MFP_CLOCK_HZ` (61 R460). -/
def mfpClockHz : Nat := 2457600

/-- `A7_BYTE_STEP` (30_encoding R133). -/
def a7ByteStep : Nat := 2

/-- The windows' first addresses and sizes (20_memory R96). -/
def psgBase : Nat := 0xFF8800
def psgSize : Nat := 4
def mfpBase : Nat := 0xFFFA00
def mfpSize : Nat := 0x40
def dacBase : Nat := 0xFF8900
def dacSize : Nat := 0x26

/-- `SR_MASK`, the implemented bits of the status word (10_state R28). -/
def srMask : Half := 0xB71F

/-- The spurious vector `irqCause()` answers when no channel is pending and unmasked (61 R490). -/
def spuriousVector : Byte := 0x18

/-- A bit the spec calls "any value": the n-th one drawn. DESIGN CHOICE (log 2), safe: nothing is provable of it. -/
opaque freeBit : Nat → Bool

/-- A byte the spec calls "any value" (log 2), safe. -/
opaque freeByte : Nat → Byte

/-- A long word the spec calls "any value" (log 2), safe. -/
opaque freeWord : Nat → Word

/-- `MIX(psg, dac, vol)`, OPEN (64 R625): a total function to a signed 16-bit sample; no body (log 10), safe. -/
opaque mix : (psg : Half) → (dac : Int) → (vol : Byte) → Half

end Sys2Proof.Config

namespace Sys2Proof

/-- The parameters of 00_scope R8 that are OPEN or have a default (log 9, 11, 12): fixed when the machine is built. -/
structure Params where
  /-- `DAC_CLOCK_HZ`, OPEN (63 R560). -/
  dacClockHz : Nat
  /-- `HOST_RETURN_ADDRESS`, OPEN (64 R626). -/
  hostReturnAddress : Word
  /-- `HOST_STACK_TOP`, OPEN (64 R626). -/
  hostStackTop : Word
  /-- `HOST_CALL_LIMIT`, OPEN, `none` for infinite (64 R627). -/
  hostCallLimit : Option Nat
  /-- `MFP_IRQ_LEVEL`, 1 to 6 (60 R440). -/
  mfpIrqLevel : BitVec 3
  /-- `RAM_INIT` (10_state R53). -/
  ramInit : Byte
  /-- `VBR_RESET` (10_state R52). -/
  vbrReset : Word
  /-- `PSG_LEVEL_TABLE`, OPEN, 32 entries (62 R533). -/
  levelTable : List Nat
  deriving DecidableEq, Repr

/-- Entries never fall along the list (62 R533 "non-decreasing"). -/
def Params.nonDecreasing : List Nat → Bool
  | [] => true
  | [_] => true
  | x :: y :: rest => decide (x ≤ y) && Params.nonDecreasing (y :: rest)

/-- What construction asks of the parameters, from 00_scope R8 and the summary of 92. DESIGN CHOICE (log 31): nothing is
asked of `hostStackTop` and `hostReturnAddress`. R8's "must leave the call's stack inside RAM" and the summary's "even" are
duties of the host, not checked: a stack top that is odd or outside RAM is accepted, and a call's pushes go where the bus
routes them. -/
def Params.legal (p : Params) : Bool :=
  decide (0 < p.dacClockHz) && decide (p.dacClockHz ≤ Config.sysClockHz)
    && decide (1 ≤ p.mfpIrqLevel.toNat) && decide (p.mfpIrqLevel.toNat ≤ 6)
    && (match p.hostCallLimit with
        | none => true
        | some n => decide (0 < n))
    && decide (p.levelTable.length = 32) && decide (p.levelTable.head? = some 0)
    && Params.nonDecreasing p.levelTable && p.levelTable.all (fun v => decide (v ≤ 10922))

/-- Defaults: MFP level 6, RAM_INIT 0 and VBR_RESET 0 are the spec's (00_scope R8); the others are OPEN there and are
DESIGN CHOICE here (log 9), unsafe for a claim that rests on them. -/
def Params.standard : Params where
  dacClockHz := 50066
  hostReturnAddress := 0xFFFFFFFC
  hostStackTop := 0x00800000
  hostCallLimit := none
  mfpIrqLevel := 6
  ramInit := 0x00
  vbrReset := 0
  levelTable := (List.range 32).map (fun n => 352 * n)

end Sys2Proof
end

