-- ==== Sys2Proof/Machine/State.lean ====
section
/-! DEFINITION. The state as plain data (10_state), the reasons a run can stop, and the state after reset
(10_state R51..R58, 70 R650, R651). -/

namespace Sys2Proof.Machine

/-- The reasons of a host-level fault (60 R420, R421, 64 R627). The fault is STATE of this hardware (10_state R35): it is
latched in `State.fault` and the base cycle still answers a next state, because the devices keep running (64 R610); no
step answers `Outcome.fault` (log 7). All are safe: after one the spec
lets only the fault itself be relied on; what the model frees and what it keeps is log 8. -/
inductive Fault where
  /-- Raised by the CPU step: the first word matches no row of the opcode table. Safe. -/
  | decodeMiss
  /-- Raised by an indexed operand: a full-format word with a field this hardware does not have (30 R141). Safe. -/
  | unsupportedExtensionWord
  /-- Raised by `RTE`: a format nibble other than 0 or 1 (47 R344). Safe. -/
  | badFrameFormat
  /-- Raised by `RESET` in supervisor mode (47 R347). Safe. -/
  | resetInstruction
  /-- Raised by the host (64 R627). Safe. -/
  | hostDetectedHang
  deriving DecidableEq, Repr

/-- Where the spec asks a model to stop with a name (00_scope R19 "Refuse", 93 U11..U14). All are safe. -/
inductive Refusal where
  /-- An instruction whose meaning is not written; raised by no arm of `exec` of this model. Safe. -/
  | notModelled (mnemonic : String)
  /-- Raised by the CPU step: an instruction starts with `T = 1` (60 R431). Safe. -/
  | traceUnspecified
  /-- Raised by a bus write or `configureTimer` that selects timer mode 9..15 on timer A or B (61 R471). Safe. -/
  | pwmModeUnspecified
  /-- Raised by a host operation out of protocol (64 R626, R628). Safe. -/
  | hostProtocol
  /-- Raised by construction with `MFP_IRQ_LEVEL` outside 1..6 (60 R440). Safe. -/
  | mfpIrqLevel
  /-- Raised by construction with parameters that are not `Params.legal` or reset values that are not `ResetValues.legal`
  (00_scope R8; log 30). Safe. -/
  | parameterOutOfRange
  deriving DecidableEq, Repr

/-- `SR` by its implemented bits (10_state R28); the bits outside `SR_MASK` read 0 and ignore writes (log 24). -/
structure Status where
  t : Bool
  s : Bool
  m : Bool
  i : BitVec 3
  x : Bool
  n : Bool
  z : Bool
  v : Bool
  c : Bool
  deriving DecidableEq, Repr

/-- RAM (10_state R38): the byte an unlisted address reads as, and the bytes that differ from it, rising (log 12). -/
structure Memory where
  unlisted : Byte
  cells : List Host.Cell
  deriving DecidableEq, Repr

/-- A `ClockManager` (10_state R39, 64 R600): `base / target` is the clock ratio; `correction` is the rational
`correction / target` of the spec (log 25). -/
structure ClockManager where
  base : Nat
  target : Nat
  timeSinceLastCycle : Nat
  correction : Nat
  deriving DecidableEq, Repr

/-- The YM2149 (10_state R40, R41). -/
structure Psg where
  /-- The selected register number. -/
  sel : BitVec 4
  /-- `PSGR[0..15]`. -/
  regs : Vector Byte 16
  div8 : BitVec 3
  tcnt : Vector (BitVec 12) 3
  tout : Vector Bool 3
  ncnt : BitVec 6
  lfsr : BitVec 17
  ecnt : BitVec 16
  estep : BitVec 5
  eattack : Bool
  ehold : Bool
  /-- `psgSample`, signed 16 bits. -/
  sample : Half
  /-- `psgReady`. -/
  ready : Bool
  deriving DecidableEq, Repr

/-- A `timer_t` (10_state R45). `control` holds bits 3:0 of timers A and B (bit 4 always reads 0), bits 2:0 of C and D. -/
structure Timer where
  control : BitVec 4
  counter : Byte
  reload : Byte
  eventFlag : Bool
  prescaler : ClockManager
  deriving DecidableEq, Repr

/-- The MC68901 (10_state R42..R46). -/
structure Mfp where
  gpip : Byte
  aer : Byte
  ddr : Byte
  ier : Half
  ipr : Half
  isr : Half
  imr : Half
  vr : Byte
  timerA : Timer
  timerB : Timer
  timerC : Timer
  timerD : Timer
  scr : Byte
  ucr : Byte
  rsr : Byte
  tsr : Byte
  udr : Byte
  deriving DecidableEq, Repr

/-- The SteDAC (10_state R47..R49). `dmaActive` and `dmaLoop` are bits 0 and 1 of `dmaControl`, whose other bits read 0. -/
structure Dac where
  dmaBegin : BitVec 24
  dmaCurrent : BitVec 24
  dmaEnd : BitVec 24
  dmaActive : Bool
  dmaLoop : Bool
  dmaMono : Bool
  dmaDivider : BitVec 2
  dmaRateCounter : Nat
  mwData : Half
  mwMask : Half
  mwCycles : Nat
  mainVolume : Byte
  deriving DecidableEq, Repr

/-- The whole machine. -/
structure State where
  /-- The parameters of 00_scope R8, fixed for the machine: no step changes them (log 9). -/
  params : Params
  /-- `D[0..7]` (10_state R21). -/
  d : Vector Word 8
  /-- `A[0..6]` (10_state R22). -/
  a : Vector Word 7
  /-- The three stack pointers (10_state R23). -/
  usp : Word
  ssp : Word
  isp : Word
  /-- `PC` (10_state R25). -/
  pc : Word
  /-- `SR` (10_state R28). -/
  sr : Status
  /-- `VBR` (10_state R32). -/
  vbr : Word
  /-- 10_state R34. -/
  stopped : Bool
  /-- 10_state R35. -/
  fault : Option Fault
  /-- The component `trap` of the last CPU step's result (00_scope R17; log 21). -/
  trap : Bool
  /-- 10_state R38. -/
  ram : Memory
  psg : Psg
  psgClock : ClockManager
  mfp : Mfp
  mfpClock : ClockManager
  dac : Dac
  dacClock : ClockManager
  /-- A `Call` has been made since reset (64 R626; log 19). -/
  callMade : Bool
  /-- The MODEL's own: how many free values have been drawn (log 2). -/
  draws : Nat
  deriving DecidableEq, Repr

/-! ## Reset -/

/-- A clock manager at reset (10_state R54): `timeSinceLastCycle = 0`, `correction = f`. -/
def ClockManager.cold (base target : Nat) : ClockManager where
  base := base
  target := target
  timeSinceLastCycle := 0
  correction := base % target

/-- 10_state R55. -/
def Psg.cold : Psg where
  sel := 0
  regs := Vector.replicate 16 0
  div8 := 0
  tcnt := Vector.replicate 3 0
  tout := Vector.replicate 3 false
  ncnt := 0
  lfsr := 1
  ecnt := 0
  estep := 0
  eattack := false
  ehold := false
  sample := 0
  ready := false

/-- 10_state R56: stopped, with a prescaler of ratio 1. -/
def Timer.cold : Timer where
  control := 0
  counter := 0
  reload := 0
  eventFlag := false
  prescaler := ClockManager.cold 1 1

/-- 10_state R56. -/
def Mfp.cold : Mfp where
  gpip := 0
  aer := 0
  ddr := 0
  ier := 0
  ipr := 0
  isr := 0
  imr := 0
  vr := 0
  timerA := Timer.cold
  timerB := Timer.cold
  timerC := Timer.cold
  timerD := Timer.cold
  scr := 0
  ucr := 0
  rsr := 0
  tsr := 0
  udr := 0

/-- 10_state R57. -/
def Dac.cold : Dac where
  dmaBegin := 0
  dmaCurrent := 0
  dmaEnd := 0
  dmaActive := false
  dmaLoop := false
  dmaMono := false
  dmaDivider := 0
  dmaRateCounter := 0
  mwData := 0
  mwMask := 0
  mwCycles := 0
  mainVolume := 64

/-- `SR = 0x2700` (10_state R52). -/
def Status.cold : Status where
  t := false
  s := true
  m := false
  i := 7
  x := false
  n := false
  z := false
  v := false
  c := false

/-- Where in its pattern a clock manager starts (10_state R54); its ratio is a constant of the machine (64 R604). -/
structure ClockPhase where
  timeSinceLastCycle : Nat
  /-- The numerator over `target` (log 25). -/
  correction : Nat
  deriving DecidableEq, Repr

/-- 10_state R54: `timeSinceLastCycle = 0`, `correction = f`. -/
def ClockPhase.cold (base target : Nat) : ClockPhase where
  timeSinceLastCycle := 0
  correction := base % target

/-- The clock manager of a ratio, started at a phase. -/
def ClockManager.start (base target : Nat) (c : ClockPhase) : ClockManager where
  base := base
  target := target
  timeSinceLastCycle := c.timeSinceLastCycle
  correction := c.correction

/-- The reset values of 10_state R52 and R54 to R57 as configuration (10_state R51, 70 R650: "a model must expose them as
configuration"). Those of `VBR` and of RAM are the parameters `vbrReset` and `ramInit`; `ISP` and `PC` are read from memory. -/
structure ResetValues where
  d : Vector Word 8
  a : Vector Word 7
  usp : Word
  ssp : Word
  sr : Status
  stopped : Bool
  fault : Option Fault
  psg : Psg
  psgClock : ClockPhase
  mfp : Mfp
  mfpClock : ClockPhase
  dac : Dac
  dacClock : ClockPhase
  deriving DecidableEq, Repr

/-- The values the spec gives (10_state R52, R54..R57). For `D0..D7`, `A0..A6`, `USP` and `SSP` R52 says "unspecified": they
are 0 here, DESIGN CHOICE (log 1), unsafe for a claim that rests on them. -/
def ResetValues.standard (p : Params) : ResetValues where
  d := Vector.replicate 8 0
  a := Vector.replicate 7 0
  usp := 0
  ssp := 0
  sr := Status.cold
  stopped := false
  fault := none
  psg := Psg.cold
  psgClock := ClockPhase.cold Config.sysClockHz Config.psgClockHz
  mfp := Mfp.cold
  mfpClock := ClockPhase.cold Config.sysClockHz Config.mfpClockHz
  dac := Dac.cold
  dacClock := ClockPhase.cold Config.sysClockHz p.dacClockHz

/-- Reset (70 R650, R651) for parameters `p` and reset values `r`, before the two reset vectors are read. -/
def State.cold (p : Params) (r : ResetValues) : State where
  params := p
  d := r.d
  a := r.a
  usp := r.usp
  ssp := r.ssp
  isp := 0
  pc := 0
  sr := r.sr
  vbr := p.vbrReset
  stopped := r.stopped
  fault := r.fault
  trap := false
  ram := { unlisted := p.ramInit, cells := [] }
  psg := r.psg
  psgClock := ClockManager.start Config.sysClockHz Config.psgClockHz r.psgClock
  mfp := r.mfp
  mfpClock := ClockManager.start Config.sysClockHz Config.mfpClockHz r.mfpClock
  dac := r.dac
  dacClock := ClockManager.start Config.sysClockHz p.dacClockHz r.dacClock
  callMade := false
  draws := 0

/-- The machine right after reset, at the default parameters and the spec's reset values. `ISP` and `PC` are the long words at 0 and 4 of a RAM of
zeros (10_state R52), so 0; Machine/HostPort.lean's `construct` reads them through the bus for any parameters. -/
def State.reset : State := State.cold Params.standard (ResetValues.standard Params.standard)

end Sys2Proof.Machine
end

