-- ==== Sys2Proof/Machine/Bits.lean ====
section
/-! DEFINITION. Sizes, truncation, sign extension and byte order (00_scope R9, R10; 20_memory R90). A value of size
`B` or `W` is held in a `Word` with zeros above. -/

namespace Sys2Proof.Machine

/-- `bits(sz)` (00_scope R10). -/
def bitCount : Size → Nat
  | .b => 8
  | .w => 16
  | .l => 32

/-- `bytes(sz)` (00_scope R10). -/
def byteCount : Size → Nat
  | .b => 1
  | .w => 2
  | .l => 4

/-- `trunc_sz(v)`, zeros above (00_scope R10). -/
def trunc (sz : Size) (v : Word) : Word :=
  match sz with
  | .b => (v.setWidth 8).setWidth 32
  | .w => (v.setWidth 16).setWidth 32
  | .l => v

/-- `msb_sz(v)` (00_scope R10). -/
def msbOf (sz : Size) (v : Word) : Bool := v.getLsbD (bitCount sz - 1)

/-- `sext_8(v)` (00_scope R10). -/
def sext8 (v : Word) : Word := (v.setWidth 8).signExtend 32

/-- `sext_16(v)` (00_scope R10). -/
def sext16 (v : Word) : Word := (v.setWidth 16).signExtend 32

/-- A word-sized source of an address-register operation is sign-extended (10_state R22). -/
def sextAddr (sz : Size) (v : Word) : Word :=
  match sz with
  | .w => sext16 v
  | _ => v

/-- `signed_16(v)` and `signed_32(v)` (00_scope R10). -/
def signed16 (v : Word) : Int := (v.setWidth 16).toInt
def signed32 (v : Word) : Int := v.toInt

/-- A write of size `sz` to a data register keeps the bits above (00_scope R11). -/
def merge (sz : Size) (old v : Word) : Word :=
  match sz with
  | .b => old.extractLsb' 8 24 ++ v.setWidth 8
  | .w => old.extractLsb' 16 16 ++ v.setWidth 16
  | .l => v

/-- Byte `k` of a value of size `sz`, the most significant byte being byte 0 (20_memory R85, R90). -/
def byteOf (sz : Size) (v : Word) (k : Nat) : Byte := v.extractLsb' (8 * (byteCount sz - 1 - k)) 8

/-- The value whose byte `k` is `f k`, byte 0 the most significant (20_memory R84, R90). -/
def joinBytes (sz : Size) (f : Nat → Byte) : Word :=
  match sz with
  | .b => (f 0).setWidth 32
  | .w => (f 0 ++ f 1).setWidth 32
  | .l => f 0 ++ f 1 ++ f 2 ++ f 3

/-- A bit as a number. -/
def bitNat (b : Bool) : Nat := if b then 1 else 0

/-- A bit as a long word. -/
def bitWord (b : Bool) : Word := if b then 1 else 0

end Sys2Proof.Machine
end

