-- ==== Sys2Proof/Machine/Dac.lean ====
section
/-! DEFINITION. The SteDAC: register map (63 R561, R562), control and mode (63 R570, R571), microwire (63 R572..R576),
DMA engine (63 R580..R582). -/

namespace Sys2Proof.Machine

/-! ## Byte lanes of the 24-bit address registers (63 R561) -/

def laneHi (x : BitVec 24) : Byte := x.extractLsb' 16 8
def laneMid (x : BitVec 24) : Byte := x.extractLsb' 8 8
def laneLo (x : BitVec 24) : Byte := x.extractLsb' 0 8
def withLaneHi (x : BitVec 24) (v : Byte) : BitVec 24 := v ++ x.extractLsb' 0 16
def withLaneMid (x : BitVec 24) (v : Byte) : BitVec 24 := x.extractLsb' 16 8 ++ v ++ x.extractLsb' 0 8
/-- The low byte loses bit 0. -/
def withLaneLo (x : BitVec 24) (v : Byte) : BitVec 24 := x.extractLsb' 8 16 ++ (v &&& 0xFE)

/-! ## Control and mode -/

/-- `dmaControl` as it reads (10_state R48). -/
def Dac.control (d : Dac) : Byte := BitVec.ofNat 8 (bitNat d.dmaActive + 2 * bitNat d.dmaLoop)

/-- A control write (63 R570): the active bit going from 0 to 1 loads the current address. -/
def Dac.writeControl (d : Dac) (v : Byte) : Dac :=
  let active := v.getLsbD 0
  let q := if !d.dmaActive && active then { d with dmaCurrent := d.dmaBegin, dmaRateCounter := 0 } else d
  { q with dmaActive := active, dmaLoop := v.getLsbD 1 }

/-- The sound mode register as it reads (63 R561). -/
def Dac.mode (d : Dac) : Byte := BitVec.ofNat 8 (128 * bitNat d.dmaMono + (3 - d.dmaDivider.toNat))

/-- A sound mode write (63 R571). -/
def Dac.writeMode (d : Dac) (v : Byte) : Dac :=
  { d with dmaMono := v.getLsbD 7, dmaDivider := 3 - v.setWidth 2 }

/-- `dmaThreshold` (10_state R50). -/
def Dac.threshold (d : Dac) : Nat := 2 ^ d.dmaDivider.toNat * (if d.dmaMono then 2 else 1)

/-! ## Microwire -/

/-- `Condense(data, mask)` (63 R573): the masked bits from bit 0 up, and their count. -/
def condense (data mask : Half) : Nat × Nat :=
  (List.range 16).foldl
    (fun acc i => if mask.getLsbD i then (acc.1 + bitNat (data.getLsbD i) * 2 ^ acc.2, acc.2 + 1) else acc) (0, 0)

/-- The main volume for an input of 6 bits (63 R573). -/
def volumeOf (d : Nat) : Nat := if 40 < d then 64 else d * 64 / 40

/-- Transaction start (63 R573). -/
def Dac.startTransaction (d : Dac) : Dac :=
  let vc := condense d.mwData d.mwMask
  let q := { d with mwCycles := 16 }
  if vc.2 = 11 ∧ vc.1 / 512 % 4 = 2 ∧ vc.1 / 64 % 8 = 3 then
    { q with mainVolume := BitVec.ofNat 8 (volumeOf (vc.1 % 64)) }
  else q

/-- A microwire cycle (63 R575): the one read side effect of the machine (20_memory R95). -/
def Dac.microwireCycle (d : Dac) : Dac :=
  if 0 < d.mwCycles then { d with mwCycles := d.mwCycles - 1, mwMask := d.mwMask.rotateLeft 1 } else d

/-! ## Register map -/

/-- A byte as it reads (63 R561); other offsets read 0. -/
def Dac.readByte (d : Dac) (o : Nat) : Byte :=
  match o with
  | 0x01 => d.control
  | 0x03 => laneHi d.dmaBegin
  | 0x05 => laneMid d.dmaBegin
  | 0x07 => laneLo d.dmaBegin
  | 0x09 => laneHi d.dmaCurrent
  | 0x0B => laneMid d.dmaCurrent
  | 0x0D => laneLo d.dmaCurrent
  | 0x0F => laneHi d.dmaEnd
  | 0x11 => laneMid d.dmaEnd
  | 0x13 => laneLo d.dmaEnd
  | 0x21 => d.mode
  | 0x22 => d.mwData.extractLsb' 8 8
  | 0x23 => d.mwData.extractLsb' 0 8
  | 0x24 => d.mwMask.extractLsb' 8 8
  | 0x25 => d.mwMask.extractLsb' 0 8
  | _ => 0

/-- A byte store (63 R561), without the transaction that a write access to the data register starts. -/
def Dac.writeByte (d : Dac) (o : Nat) (v : Byte) : Dac :=
  match o with
  | 0x01 => d.writeControl v
  | 0x03 => { d with dmaBegin := withLaneHi d.dmaBegin v }
  | 0x05 => { d with dmaBegin := withLaneMid d.dmaBegin v }
  | 0x07 => { d with dmaBegin := withLaneLo d.dmaBegin v }
  | 0x09 => { d with dmaCurrent := withLaneHi d.dmaCurrent v }
  | 0x0B => { d with dmaCurrent := withLaneMid d.dmaCurrent v }
  | 0x0D => { d with dmaCurrent := withLaneLo d.dmaCurrent v }
  | 0x0F => { d with dmaEnd := withLaneHi d.dmaEnd v }
  | 0x11 => { d with dmaEnd := withLaneMid d.dmaEnd v }
  | 0x13 => { d with dmaEnd := withLaneLo d.dmaEnd v }
  | 0x21 => d.writeMode v
  | 0x22 => { d with mwData := v ++ d.mwData.extractLsb' 0 8 }
  | 0x23 => { d with mwData := d.mwData.extractLsb' 8 8 ++ v }
  | 0x24 => { d with mwMask := v ++ d.mwMask.extractLsb' 0 8 }
  | 0x25 => { d with mwMask := d.mwMask.extractLsb' 8 8 ++ v }
  | _ => d

/-- The access of `sz` at offset `o` covers offset `x` or `x + 1` (63 R562). -/
def coversPair (o : Nat) (sz : Size) (x : Nat) : Bool := decide (o ≤ x + 1) && decide (x < o + byteCount sz)

/-- What a read access at offset `o` does before its bytes are returned (63 R562 (b)). -/
def Dac.touch (d : Dac) (o : Nat) (sz : Size) : Dac := if coversPair o sz 0x24 then d.microwireCycle else d

/-- The bytes of a read access (63 R562). -/
def Dac.access (d : Dac) (o : Nat) (sz : Size) : Word := joinBytes sz (fun k => d.readByte (o + k))

/-- Byte stores `k, ..., k+n-1` of a write access. -/
def Dac.storeBytes (d : Dac) (o : Nat) (sz : Size) (v : Word) (k : Nat) : Nat → Dac
  | 0 => d
  | n + 1 => Dac.storeBytes (d.writeByte (o + k) (byteOf sz v k)) o sz v (k + 1) n

/-- A write access (63 R562): its bytes, then one transaction if it covered the data register. -/
def Dac.store (d : Dac) (o : Nat) (sz : Size) (v : Word) : Dac :=
  let q := d.storeBytes o sz v 0 (byteCount sz)
  if coversPair o sz 0x22 then q.startTransaction else q

/-! ## DMA engine -/

/-- `clockCycle()` (63 R580): the engine afterwards, whether the address advanced, and whether the buffer ended, in which
case the caller calls the MFP's `fireDMAEvent()` once (63 R582). -/
def Dac.clockCycle (d : Dac) : Dac × Bool × Bool :=
  if !d.dmaActive then (d, false, false)
  else if d.dmaRateCounter + 1 < d.threshold then
    ({ d with dmaRateCounter := d.dmaRateCounter + 1 }, false, false)
  else
    let next := d.dmaCurrent + (if d.dmaMono then 1 else 2)
    if next = d.dmaEnd then
      ({ d with dmaRateCounter := 0, dmaCurrent := d.dmaBegin, dmaActive := d.dmaLoop }, true, true)
    else ({ d with dmaRateCounter := 0, dmaCurrent := next }, true, false)

/-- The SteDAC: bit 0 of the begin and end registers (10_state R47), the cycle counter and the volume (10_state R49). -/
def Dac.ok (d : Dac) : Bool :=
  !d.dmaBegin.getLsbD 0 && !d.dmaEnd.getLsbD 0 && decide (d.mwCycles ≤ 16) && decide (d.mainVolume.toNat ≤ 64)

end Sys2Proof.Machine
end

