-- ==== Sys2Proof/Machine/Memory.lean ====
section
/-! DEFINITION. RAM as a list of (address, byte) pairs in one canonical form (10_state R38, 20_memory R87, R89; log 12):
addresses strictly rising and inside RAM, no entry equal to what an unlisted address reads as. -/

namespace Sys2Proof.Machine

/-- The first entry at `a`, else `dflt`. -/
def lookupCell (dflt : Byte) (a : Nat) : List Host.Cell → Byte
  | [] => dflt
  | c :: rest => if c.1 = a then c.2 else lookupCell dflt a rest

/-- The list without its entries at `a`. -/
def dropCell (a : Nat) : List Host.Cell → List Host.Cell
  | [] => []
  | c :: rest => if c.1 = a then dropCell a rest else c :: dropCell a rest

/-- The list with the entry `(a, v)` put where the addresses keep rising. -/
def putCell (a : Nat) (v : Byte) : List Host.Cell → List Host.Cell
  | [] => [(a, v)]
  | c :: rest => if a < c.1 then (a, v) :: c :: rest else if c.1 = a then (a, v) :: rest else c :: putCell a v rest

/-- The byte of RAM at offset `a`. -/
def Memory.read (m : Memory) (a : Nat) : Byte := lookupCell m.unlisted a m.cells

/-- Storing a byte: the value an unlisted address reads as leaves no entry. -/
def Memory.write (m : Memory) (a : Nat) (v : Byte) : Memory :=
  if v = m.unlisted then { m with cells := dropCell a m.cells } else { m with cells := putCell a v m.cells }

/-- Every entry lies at or past `lo`, strictly rising, inside RAM and different from `dflt`. -/
def cellsFrom (dflt : Byte) : Nat → List Host.Cell → Bool
  | _, [] => true
  | lo, c :: rest =>
    decide (lo ≤ c.1) && decide (c.1 < Config.ramSize) && decide (c.2 ≠ dflt) && cellsFrom dflt (c.1 + 1) rest

/-- The canonical form. -/
def Memory.wf (m : Memory) : Bool := cellsFrom m.unlisted 0 m.cells

/-- Byte `k` of a read at offset `o`: bytes at or past the end of RAM read 0 (20_memory R87). -/
def Memory.readAt (m : Memory) (o k : Nat) : Byte := if o + k < Config.ramSize then m.read (o + k) else 0

/-- A byte store at offset `o`, discarded at or past the end of RAM (20_memory R87). -/
def Memory.writeAt (m : Memory) (o : Nat) (v : Byte) : Memory := if o < Config.ramSize then m.write o v else m

/-- `RAM.readAddress(o, n)` (20_memory R89). -/
def Memory.access (m : Memory) (o : Nat) (sz : Size) : Word := joinBytes sz (m.readAt o)

/-- Bytes `k, k+1, ..., k+n-1` of a value, stored from offset `o + k` on. -/
def Memory.storeBytes (m : Memory) (o : Nat) (sz : Size) (v : Word) (k : Nat) : Nat → Memory
  | 0 => m
  | n + 1 => Memory.storeBytes (m.writeAt (o + k) (byteOf sz v k)) o sz v (k + 1) n

/-- `RAM.writeAddress(o, n, bytes)` (20_memory R89). -/
def Memory.store (m : Memory) (o : Nat) (sz : Size) (v : Word) : Memory := m.storeBytes o sz v 0 (byteCount sz)

/-- The bytes of an image stored from offset `o` on (64 R621). -/
def Memory.storeList (m : Memory) (o : Nat) : List Byte → Memory
  | [] => m
  | b :: rest => Memory.storeList (m.writeAt o b) (o + 1) rest

end Sys2Proof.Machine
end

