-- ==== Sys2Proof/Machine/Clock.lean ====
section
/-! DEFINITION. The clock synchroniser (64 R600..R604). -/

namespace Sys2Proof.Machine

/-- `R = floor(base / target)` (64 R600). -/
def ClockManager.whole (c : ClockManager) : Nat := c.base / c.target

/-- The numerator of `f = base / target - R` over `target` (64 R600). -/
def ClockManager.part (c : ClockManager) : Nat := c.base % c.target

/-- `R + floor(correction)`: the calls from one tick to the next (64 R601). -/
def ClockManager.spacing (c : ClockManager) : Nat := c.whole + c.correction / c.target

/-- `advanceCycle()` (64 R601): the manager afterwards, and whether this base cycle is a tick. -/
def ClockManager.advance (c : ClockManager) : ClockManager × Bool :=
  if c.timeSinceLastCycle + 1 < c.spacing then
    ({ c with timeSinceLastCycle := c.timeSinceLastCycle + 1 }, false)
  else
    ({ c with
        timeSinceLastCycle := 0
        correction := (if c.target ≤ c.correction then c.correction - c.target else c.correction) + c.part }, true)

/-- What 64 R600 and R602 say of a clock manager at all times: `0 < target ≤ base`, `correction < 2`, and the counter has
not reached the spacing. -/
def ClockManager.ok (c : ClockManager) : Bool :=
  decide (0 < c.target) && decide (c.target ≤ c.base) && decide (c.correction < 2 * c.target)
    && decide (c.timeSinceLastCycle < c.spacing)

end Sys2Proof.Machine
end

