-- ==== Sys2Proof/Machine/Mfp.lean ====
section
/-! DEFINITION. The MC68901: register map and access widths (61 R461..R468), timers (61 R470..R477), interrupt
controller (61 R480..R494). -/

namespace Sys2Proof.Machine

/-! ## Timers -/

/-- The prescale of a mode code (61 R471). Codes 0 and 8 use no prescaler: ratio 1, unobservable (log 23). -/
def prescaleOf (code : BitVec 4) : Nat :=
  match code.toNat with
  | 1 => 4
  | 2 => 10
  | 3 => 16
  | 4 => 50
  | 5 => 64
  | 6 => 100
  | 7 => 200
  | _ => 1

/-- A control write of a code that is specified (61 R472): an unchanged code disturbs nothing. -/
def Timer.setControl (t : Timer) (code : BitVec 4) : Timer :=
  if code = t.control then t
  else { t with control := code, prescaler := ClockManager.cold (prescaleOf code) 1 }

/-- A control write to timer A or B, whose codes 9..15 are refused (61 R471, R472). -/
def Timer.writeControl (t : Timer) (code : BitVec 4) : Except Refusal Timer :=
  if 8 < code.toNat then .error .pwmModeUnspecified else .ok (t.setControl code)

/-- A data write (61 R474). -/
def Timer.writeData (t : Timer) (v : Byte) : Timer :=
  if t.control = 0 then { t with reload := v, counter := v } else { t with reload := v }

/-- `CountStep(t)` (61 R476): the timer afterwards, and whether it underflowed. -/
def Timer.countStep (t : Timer) : Timer × Bool :=
  let c := t.counter - 1
  if c = 0 then ({ t with counter := t.reload }, true) else ({ t with counter := c }, false)

/-- One timer of `clockCycle()` (61 R475). Codes 9..15 cannot be stored (61 R471); they do nothing here (log 23). -/
def Timer.clock (t : Timer) : Timer × Bool :=
  if t.control = 0 then (t, false)
  else if t.control = 8 then
    if t.eventFlag then Timer.countStep { t with eventFlag := false } else (t, false)
  else if t.control.toNat < 8 then
    match t.prescaler.advance with
    | (p, true) => Timer.countStep { t with prescaler := p }
    | (p, false) => ({ t with prescaler := p }, false)
  else (t, false)

/-- `markExternalEvent()` (61 R477). -/
def Timer.mark (t : Timer) : Timer := { t with eventFlag := true }

/-! ## Interrupt controller -/

/-- `1 << ch`. -/
def channelBit (ch : Nat) : Half := BitVec.ofNat 16 (2 ^ ch)

/-- `SetPending(ch)` (61 R481). -/
def Mfp.setPending (m : Mfp) (ch : Nat) : Mfp :=
  if m.ier.getLsbD ch then { m with ipr := m.ipr ||| channelBit ch } else m

/-- The request line (61 R491). -/
def Mfp.line (m : Mfp) : Bool := !decide (m.ipr &&& m.imr = 0)

/-- The scan of `irqCause()`: the highest of channels `n-1, ..., 0` that is pending and unmasked (61 R490). -/
def topChannel (active : Half) : Nat → Option Nat
  | 0 => none
  | n + 1 => if active.getLsbD n then some n else topChannel active n

/-- `irqCause()` (61 R490): the controller afterwards, and the vector. -/
def Mfp.irqCause (m : Mfp) : Mfp × Byte :=
  match topChannel (m.ipr &&& m.imr) 16 with
  | some ch => ({ m with ipr := m.ipr &&& ~~~ channelBit ch }, (m.vr &&& 0xF0) ||| BitVec.ofNat 8 ch)
  | none => (m, Config.spuriousVector)

/-- A write of `IER` (61 R481): disabling a channel clears its pending bit. -/
def Mfp.writeIer (m : Mfp) (v : Half) : Mfp := { m with ier := v, ipr := m.ipr &&& v }

/-- `fireDMAEvent()` (61 R492). -/
def Mfp.fireDmaEvent (m : Mfp) : Mfp := Mfp.setPending { m with timerA := m.timerA.mark } 15

/-- A timer's underflow sets its channel pending (61 R476). -/
def Mfp.underflow (m : Mfp) (ch : Nat) (fired : Bool) : Mfp := if fired then m.setPending ch else m

/-- `clockCycle()` (61 R475): timers A, B, C, D in this order; and whether one underflowed. -/
def Mfp.clockCycle (m : Mfp) : Mfp × Bool :=
  let a := m.timerA.clock
  let m := Mfp.underflow { m with timerA := a.1 } 13 a.2
  let b := m.timerB.clock
  let m := Mfp.underflow { m with timerB := b.1 } 8 b.2
  let c := m.timerC.clock
  let m := Mfp.underflow { m with timerC := c.1 } 5 c.2
  let d := m.timerD.clock
  let m := Mfp.underflow { m with timerD := d.1 } 4 d.2
  (m, a.2 || b.2 || c.2 || d.2)

/-! ## Registers (61 R461) -/

/-- `v[15:8]` and `v[7:0]`, and a half word with one of them replaced. -/
def hiByte (v : Half) : Byte := v.extractLsb' 8 8
def loByte (v : Half) : Byte := v.extractLsb' 0 8
def withHi (v : Half) (b : Byte) : Half := b ++ loByte v
def withLo (v : Half) (b : Byte) : Half := hiByte v ++ b

/-- The register at an odd offset; other offsets hold nothing and read 0. -/
def Mfp.readReg (m : Mfp) (o : Nat) : Byte :=
  match o with
  | 0x01 => m.gpip
  | 0x03 => m.aer
  | 0x05 => m.ddr
  | 0x07 => hiByte m.ier
  | 0x09 => loByte m.ier
  | 0x0B => hiByte m.ipr
  | 0x0D => loByte m.ipr
  | 0x0F => hiByte m.isr
  | 0x11 => loByte m.isr
  | 0x13 => hiByte m.imr
  | 0x15 => loByte m.imr
  | 0x17 => m.vr &&& 0xF8
  | 0x19 => m.timerA.control.setWidth 8
  | 0x1B => m.timerB.control.setWidth 8
  | 0x1D => m.timerC.control ++ m.timerD.control
  | 0x1F => m.timerA.counter
  | 0x21 => m.timerB.counter
  | 0x23 => m.timerC.counter
  | 0x25 => m.timerD.counter
  | 0x27 => m.scr
  | 0x29 => m.ucr
  | 0x2B => m.rsr
  | 0x2D => m.tsr
  | 0x2F => m.udr
  | _ => 0

/-- The 3-bit control fields of `TCDCR` (61 R473). -/
def tcField (v : Byte) : BitVec 4 := (v.extractLsb' 4 3).setWidth 4
def tdField (v : Byte) : BitVec 4 := (v.extractLsb' 0 3).setWidth 4

/-- A write of the register at an odd offset; refused only for a pulse-width mode (61 R471). -/
def Mfp.writeReg (m : Mfp) (o : Nat) (v : Byte) : Except Refusal Mfp :=
  match o with
  | 0x01 => .ok { m with gpip := v }
  | 0x03 => .ok { m with aer := v }
  | 0x05 => .ok { m with ddr := v }
  | 0x07 => .ok (m.writeIer (withHi m.ier v))
  | 0x09 => .ok (m.writeIer (withLo m.ier v))
  | 0x0B => .ok { m with ipr := withHi m.ipr (hiByte m.ipr &&& v) }
  | 0x0D => .ok { m with ipr := withLo m.ipr (loByte m.ipr &&& v) }
  | 0x0F => .ok { m with isr := withHi m.isr (hiByte m.isr &&& v) }
  | 0x11 => .ok { m with isr := withLo m.isr (loByte m.isr &&& v) }
  | 0x13 => .ok { m with imr := withHi m.imr v }
  | 0x15 => .ok { m with imr := withLo m.imr v }
  | 0x17 => .ok { m with vr := v &&& 0xF8 }
  | 0x19 =>
    match m.timerA.writeControl (v.setWidth 4) with
    | .ok t => .ok { m with timerA := t }
    | .error r => .error r
  | 0x1B =>
    match m.timerB.writeControl (v.setWidth 4) with
    | .ok t => .ok { m with timerB := t }
    | .error r => .error r
  | 0x1D => .ok { m with timerC := m.timerC.setControl (tcField v), timerD := m.timerD.setControl (tdField v) }
  | 0x1F => .ok { m with timerA := m.timerA.writeData v }
  | 0x21 => .ok { m with timerB := m.timerB.writeData v }
  | 0x23 => .ok { m with timerC := m.timerC.writeData v }
  | 0x25 => .ok { m with timerD := m.timerD.writeData v }
  | 0x27 => .ok { m with scr := v }
  | 0x29 => .ok { m with ucr := v }
  | 0x2B => .ok { m with rsr := v }
  | 0x2D => .ok { m with tsr := v }
  | 0x2F => .ok { m with udr := v }
  | _ => .ok m

/-- A read access (61 R462): rejected accesses read 0. -/
def Mfp.access (m : Mfp) (o : Nat) (sz : Size) : Word :=
  match sz with
  | .b => if o % 2 = 1 then (m.readReg o).setWidth 32 else 0
  | .w => if o % 2 = 0 then ((0 : Byte) ++ m.readReg (o + 1)).setWidth 32 else 0
  | .l => if o % 2 = 0 then (0 : Byte) ++ m.readReg (o + 1) ++ (0 : Byte) ++ m.readReg (o + 3) else 0

/-- A write access (61 R462): rejected accesses are discarded. -/
def Mfp.store (m : Mfp) (o : Nat) (sz : Size) (v : Word) : Except Refusal Mfp :=
  match sz with
  | .b => if o % 2 = 1 then m.writeReg o (byteOf .b v 0) else .ok m
  | .w => if o % 2 = 0 then m.writeReg (o + 1) (byteOf .w v 1) else .ok m
  | .l =>
    if o % 2 = 0 then
      match m.writeReg (o + 1) (byteOf .l v 1) with
      | .ok m1 => m1.writeReg (o + 3) (byteOf .l v 3)
      | .error r => .error r
    else .ok m

/-- The four timers by index (61 R493). -/
inductive TimerIndex where
  | a | b | c | d
  deriving DecidableEq, Repr

/-- `controlBits` of `configureTimer` as the 3-bit field of timer C or D (61 R493). DEDUCED (log 32): it is the code itself,
written by R472, so both timers take bits 2:0; it is no `TCDCR` byte, whose field for timer C R473 finds in bits 6:4. -/
def codeField (v : Byte) : BitVec 4 := (v.extractLsb' 0 3).setWidth 4

/-- `configureTimer` (61 R493): a data write, then a write of `controlBits` to the control field of that timer alone, by R472:
timers A and B take bits 3:0, timers C and D `codeField`. -/
def Mfp.configureTimer (m : Mfp) (t : TimerIndex) (reload control : Byte) : Except Refusal Mfp :=
  match t with
  | .a =>
    match (m.timerA.writeData reload).writeControl (control.setWidth 4) with
    | .ok t => .ok { m with timerA := t }
    | .error r => .error r
  | .b =>
    match (m.timerB.writeData reload).writeControl (control.setWidth 4) with
    | .ok t => .ok { m with timerB := t }
    | .error r => .error r
  | .c => .ok { m with timerC := (m.timerC.writeData reload).setControl (codeField control) }
  | .d => .ok { m with timerD := (m.timerD.writeData reload).setControl (codeField control) }

/-- The interrupt controller: `IPR & ~IER = 0` (10_state R43), `VR` bits 2:0 read 0 (10_state R44), the mode codes that can
be stored (61 R471) and the prescalers (64 R602). -/
def Mfp.ok (m : Mfp) : Bool :=
  (m.ipr &&& ~~~ m.ier == 0) && (m.vr &&& 0x07 == 0)
    && decide (m.timerA.control.toNat ≤ 8) && decide (m.timerB.control.toNat ≤ 8)
    && decide (m.timerC.control.toNat < 8) && decide (m.timerD.control.toNat < 8)
    && m.timerA.prescaler.ok && m.timerB.prescaler.ok && m.timerC.prescaler.ok && m.timerD.prescaler.ok

end Sys2Proof.Machine
end

