-- ==== Sys2Proof/Machine/Psg.lean ====
section
/-! DEFINITION. The YM2149: bus interface (62 R520..R524) and generator (62 R530..R535). -/

namespace Sys2Proof.Machine

/-! ## Registers -/

/-- `wmask(r)` (62 R521, 10_state R40). -/
def Psg.wmask (r : BitVec 4) : Byte :=
  match r.toNat with
  | 1 => 0x0F
  | 3 => 0x0F
  | 5 => 0x0F
  | 13 => 0x0F
  | 6 => 0x1F
  | 8 => 0x1F
  | 9 => 0x1F
  | 10 => 0x1F
  | _ => 0xFF

/-- `PSGR[r]`. -/
def Psg.reg (p : Psg) (r : BitVec 4) : Byte := p.regs[r.toNat]'r.isLt

/-- A write of register 13 restarts the envelope (62 R524). -/
def Psg.restartEnvelope (p : Psg) (v : Byte) : Psg :=
  { p with estep := 0, ecnt := 0, ehold := false, eattack := v.getLsbD 2 }

/-- `PSGR[sel] <- value & wmask(sel)` (62 R521). -/
def Psg.writeSelected (p : Psg) (v : Byte) : Psg :=
  let q := { p with regs := p.regs.set p.sel.toNat (v &&& Psg.wmask p.sel) p.sel.isLt }
  if p.sel = 13 then q.restartEnvelope v else q

/-- A byte read at offset `o` (62 R521); offsets 1 to 3 and past the window read 0. -/
def Psg.readByte (p : Psg) (o : Nat) : Byte :=
  match o with
  | 0 => p.reg p.sel
  | _ => 0

/-- A byte write at offset `o` (62 R521). -/
def Psg.writeByte (p : Psg) (o : Nat) (v : Byte) : Psg :=
  match o with
  | 0 => { p with sel := v.setWidth 4 }
  | 2 => p.writeSelected v
  | _ => p

/-- An access of several bytes is that many byte accesses in ascending order (62 R522). -/
def Psg.access (p : Psg) (o : Nat) (sz : Size) : Word := joinBytes sz (fun k => p.readByte (o + k))

/-- Byte writes `k, ..., k+n-1` of a write access (62 R522). -/
def Psg.storeBytes (p : Psg) (o : Nat) (sz : Size) (v : Word) (k : Nat) : Nat → Psg
  | 0 => p
  | n + 1 => Psg.storeBytes (p.writeByte (o + k) (byteOf sz v k)) o sz v (k + 1) n

def Psg.store (p : Psg) (o : Nat) (sz : Size) (v : Word) : Psg := p.storeBytes o sz v 0 (byteCount sz)

/-! ## Derived values (62 R523) -/

/-- `TP[k]`: the rough register's four bits above the fine register. -/
def Psg.tonePeriod (p : Psg) (k : Fin 3) : Nat :=
  (p.reg (BitVec.ofNat 4 (2 * k.val + 1))).toNat % 16 * 256 + (p.reg (BitVec.ofNat 4 (2 * k.val))).toNat

/-- `NP`. -/
def Psg.noisePeriod (p : Psg) : Nat := (p.reg 6).toNat % 32

/-- `EP`. -/
def Psg.envPeriod (p : Psg) : Nat := (p.reg 12).toNat * 256 + (p.reg 11).toNat

/-- `MX[b]`. -/
def Psg.mixer (p : Psg) (b : Nat) : Bool := (p.reg 7).getLsbD b

/-- The shape bits of `PSGR[13]`. -/
def Psg.shapeCont (p : Psg) : Bool := (p.reg 13).getLsbD 3
def Psg.shapeAtt (p : Psg) : Bool := (p.reg 13).getLsbD 2
def Psg.shapeAlt (p : Psg) : Bool := (p.reg 13).getLsbD 1
def Psg.shapeHold (p : Psg) : Bool := (p.reg 13).getLsbD 0

/-! ## Generator -/

/-- One tone channel of `GeneratorStep` (62 R531). -/
def Psg.toneStep (p : Psg) (k : Fin 3) : Psg :=
  let c := p.tcnt[k].toNat + 1
  if max (p.tonePeriod k) 1 ≤ c then
    { p with tcnt := p.tcnt.set k 0, tout := p.tout.set k (!p.tout[k]) }
  else { p with tcnt := p.tcnt.set k (BitVec.ofNat 12 c) }

/-- The noise generator of `GeneratorStep` (62 R531): 17 bits, taps 0 and 3. -/
def Psg.noiseStep (p : Psg) : Psg :=
  let c := p.ncnt.toNat + 1
  if 2 * max p.noisePeriod 1 ≤ c then
    { p with ncnt := 0
             lfsr := BitVec.ofBool (p.lfsr.getLsbD 0 ^^ p.lfsr.getLsbD 3) ++ p.lfsr.extractLsb' 1 16 }
  else { p with ncnt := BitVec.ofNat 6 c }

/-- `EnvelopeStep()` (62 R532). -/
def Psg.envelopeStep (p : Psg) : Psg :=
  if p.estep.toNat < 31 then { p with estep := p.estep + 1 }
  else if !p.shapeCont then { p with ehold := true, eattack := false }
  else if p.shapeHold then { p with ehold := true, eattack := p.eattack ^^ p.shapeAlt }
  else { p with estep := 0, eattack := p.eattack ^^ p.shapeAlt }

/-- The envelope generator of `GeneratorStep` (62 R531). -/
def Psg.envelopeTick (p : Psg) : Psg :=
  if p.ehold then p
  else
    let c := p.ecnt.toNat + 1
    if max p.envPeriod 1 ≤ c then Psg.envelopeStep { p with ecnt := 0 }
    else { p with ecnt := BitVec.ofNat 16 c }

/-- `envLevel` (62 R532). -/
def Psg.envLevel (p : Psg) : Nat := if p.eattack then p.estep.toNat else 31 - p.estep.toNat

/-- The level register `PSGR[8+k]`. -/
def Psg.levelReg (p : Psg) (k : Fin 3) : Byte := p.reg (BitVec.ofNat 4 (8 + k.val))

/-- `g[k]` of `Mix3` (62 R533). -/
def Psg.channelLevel (p : Psg) (k : Fin 3) : Nat :=
  let level5 := if (p.levelReg k).getLsbD 4 then p.envLevel else 2 * ((p.levelReg k).toNat % 16) + 1
  if (p.tout[k] || p.mixer k.val) && (p.lfsr.getLsbD 0 || p.mixer (3 + k.val)) then level5 else 0

/-- `Mix3()` (62 R533); an entry past the end of the table counts 0 (a legal table has 32). -/
def Psg.mix3 (table : List Nat) (p : Psg) : Nat :=
  table.getD (p.channelLevel 0) 0 + table.getD (p.channelLevel 1) 0 + table.getD (p.channelLevel 2) 0

/-- `GeneratorStep()` (62 R531). -/
def Psg.generatorStep (table : List Nat) (p : Psg) : Psg :=
  let q := ((((p.toneStep 0).toneStep 1).toneStep 2).noiseStep).envelopeTick
  { q with sample := BitVec.ofNat 16 (q.mix3 table), ready := true }

/-- `clockCycle()` (62 R530): the PSG afterwards, and whether the generator stepped. -/
def Psg.clockCycle (table : List Nat) (p : Psg) : Psg × Bool :=
  let q := { p with div8 := p.div8 + 1 }
  if q.div8 = 0 then (q.generatorStep table, true) else (q, false)

/-- Every register holds implemented bits only (10_state R40). -/
def Psg.masked (p : Psg) : Bool :=
  (List.range 16).all (fun r => (p.reg (BitVec.ofNat 4 r) &&& ~~~ Psg.wmask (BitVec.ofNat 4 r)) == 0)

end Sys2Proof.Machine
end

