-- ==== Sys2Proof/Machine/Bus.lean ====
section
/-! DEFINITION. The bus: the fixed map and the router (20_memory R80..R96). -/

namespace Sys2Proof.Machine

/-- The peripherals of the fixed map (20_memory R96). -/
inductive Device where
  | ram | psg | mfp | dac
  deriving DecidableEq, Repr

/-- A binding of the bus: a half-open range and its peripheral (10_state R37). -/
structure Binding where
  first : Nat
  past : Nat
  device : Device
  deriving DecidableEq, Repr

/-- The map in registration order (20_memory R96). -/
def bindings : List Binding := [
  ⟨0, Config.ramSize, .ram⟩,
  ⟨Config.psgBase, Config.psgBase + Config.psgSize, .psg⟩,
  ⟨Config.mfpBase, Config.mfpBase + Config.mfpSize, .mfp⟩,
  ⟨Config.dacBase, Config.dacBase + Config.dacSize, .dac⟩]

/-- The first range that contains the address, and the offset in it (20_memory R84). -/
def routeIn (a : Nat) : List Binding → Option (Device × Nat)
  | [] => none
  | b :: rest => if b.first ≤ a ∧ a < b.past then some (b.device, a - b.first) else routeIn a rest

/-- `addr & ADDR_MASK` (20_memory R82). -/
def busAddr (addr : Word) : Nat := addr.toNat % 2 ^ Config.addrBits

/-- The router (20_memory R84, R85). -/
def route (addr : Word) : Option (Device × Nat) := routeIn (busAddr addr) bindings

/-- `MemRead(addr, n)` (20_memory R84): the value, and the state after the read's side effect, if any (20_memory R95). -/
def memRead (s : State) (addr : Word) (sz : Size) : Word × State :=
  match route addr with
  | some (.ram, o) => (s.ram.access o sz, s)
  | some (.psg, o) => (s.psg.access o sz, s)
  | some (.mfp, o) => (s.mfp.access o sz, s)
  | some (.dac, o) =>
    let d := s.dac.touch o sz
    (d.access o sz, { s with dac := d })
  | none => (0, s)

/-- `MemWrite(addr, n, v)` (20_memory R85); refused only by a pulse-width timer mode (61 R471; log 18). -/
def memWrite (s : State) (addr : Word) (sz : Size) (v : Word) : Except Refusal State :=
  match route addr with
  | some (.ram, o) => .ok { s with ram := s.ram.store o sz v }
  | some (.psg, o) => .ok { s with psg := s.psg.store o sz v }
  | some (.mfp, o) =>
    match s.mfp.store o sz v with
    | .ok m => .ok { s with mfp := m }
    | .error r => .error r
  | some (.dac, o) => .ok { s with dac := s.dac.store o sz v }
  | none => .ok s

/-- One byte of the address space as it reads: the byte a claim about memory speaks of. -/
def peek (s : State) (addr : Word) : Byte := (memRead s addr .b).1.setWidth 8

end Sys2Proof.Machine
end

