-- ==== Sys2Proof/Machine/Ops.lean ====
section
/-! DEFINITION. The named operations over registers, status word, memory and stack (00_scope R11..R13), free values
(00_scope R19), taking an exception and returning from one (60 R410, 47 R344), and how an instruction ends. -/

namespace Sys2Proof.Machine

/-! ## Registers -/

/-- `D[n]` and a write of all 32 bits. -/
def State.dreg (s : State) (n : Reg) : Word := s.d[n]
def State.setD (s : State) (n : Reg) (v : Word) : State := { s with d := s.d.set n v }

/-- The active stack pointer, by `S` and `M` (10_state R24). -/
def State.sp (s : State) : Word := if s.sr.s then (if s.sr.m then s.ssp else s.isp) else s.usp

def State.setSp (s : State) (v : Word) : State :=
  if s.sr.s then (if s.sr.m then { s with ssp := v } else { s with isp := v }) else { s with usp := v }

/-- `A[n]`; number 7 is the active stack pointer (10_state R24). -/
def State.areg (s : State) (n : Reg) : Word := if h : n.val < 7 then s.a[n.val] else s.sp

/-- A write of an address register replaces all 32 bits (00_scope R11). -/
def State.setA (s : State) (n : Reg) (v : Word) : State :=
  if h : n.val < 7 then { s with a := s.a.set n.val v } else s.setSp v

/-- A write of size `sz` to a data register (00_scope R11). -/
def State.writeD (s : State) (n : Reg) (sz : Size) (v : Word) : State := s.setD n (merge sz (s.dreg n) v)

def State.setPc (s : State) (v : Word) : State := { s with pc := v }
def State.setSr (s : State) (f : Status) : State := { s with sr := f }

/-! ## The status word -/

/-- `SR` as a 16-bit word (10_state R28). -/
def Status.toWord (f : Status) : Half :=
  BitVec.ofBool f.t ++ 0#1 ++ BitVec.ofBool f.s ++ BitVec.ofBool f.m ++ 0#1 ++ f.i ++ 0#3
    ++ BitVec.ofBool f.x ++ BitVec.ofBool f.n ++ BitVec.ofBool f.z ++ BitVec.ofBool f.v ++ BitVec.ofBool f.c

/-- A write of the whole word stores `value & SR_MASK` (10_state R28). -/
def Status.ofWord (w : Half) : Status where
  t := w.getLsbD 15
  s := w.getLsbD 13
  m := w.getLsbD 12
  i := w.extractLsb' 8 3
  x := w.getLsbD 4
  n := w.getLsbD 3
  z := w.getLsbD 2
  v := w.getLsbD 1
  c := w.getLsbD 0

/-- A write of the low byte changes the flags alone (10_state R28). -/
def Status.withCcr (f : Status) (w : Half) : Status :=
  { f with x := w.getLsbD 4, n := w.getLsbD 3, z := w.getLsbD 2, v := w.getLsbD 1, c := w.getLsbD 0 }

/-! ## Instructions as state transformers that can stop -/

/-- How an instruction is abandoned other than by an exception: a host-level fault (60 R420) or a refusal. -/
inductive Stop where
  | fault (r : Fault)
  | refused (r : Refusal)
  deriving DecidableEq, Repr

/-- An instruction or a part of one: it goes on with a value and a state, or stops, keeping the state it reached. -/
abbrev M := EStateM Stop State

/-- Reading the state. -/
def look {α : Type} (f : State → α) : M α := fun s => .ok (f s) s

/-- Changing the state. -/
def change (f : State → State) : M Unit := fun s => .ok () (f s)

/-- `raise HostFault(reason)` (00_scope R13). -/
def hostFault {α : Type} (r : Fault) : M α := fun s => .error (.fault r) s

/-- `MemRead(addr, n)` (00_scope R12). -/
def readMem (addr : Word) (sz : Size) : M Word := fun s => .ok (memRead s addr sz).1 (memRead s addr sz).2

/-- `MemWrite(addr, n, v)` (00_scope R12). -/
def writeMem (addr : Word) (sz : Size) (v : Word) : M Unit := fun s =>
  match memWrite s addr sz v with
  | .ok s' => .ok () s'
  | .error r => .error (.refused r) s

/-- The instruction word at `PC`, and the state after `Fetch16()` (00_scope R12). -/
def fetchWord (s : State) : Half × State :=
  let r := memRead s s.pc .w
  (r.1.setWidth 16, r.2.setPc (r.2.pc + 2))

/-- `Fetch16()` (00_scope R12). -/
def fetch16 : M Half := fun s => .ok (fetchWord s).1 (fetchWord s).2

/-- `Fetch32()`: the high word first (00_scope R12). -/
def fetch32 : M Word := do
  let hi ← fetch16
  let lo ← fetch16
  return hi ++ lo

/-- `Push(n, v)` (00_scope R12). -/
def push (sz : Size) (v : Word) : M Unit := do
  change (fun s => s.setSp (s.sp - BitVec.ofNat 32 (byteCount sz)))
  let sp ← look State.sp
  writeMem sp sz v

/-- `Pop(n)` (00_scope R12). -/
def pop (sz : Size) : M Word := do
  let sp ← look State.sp
  let v ← readMem sp sz
  change (fun s => s.setSp (s.sp + BitVec.ofNat 32 (byteCount sz)))
  return v

/-! ## Free values (log 2) -/

def drawBit : M Bool := fun s => .ok (Config.freeBit s.draws) { s with draws := s.draws + 1 }
def drawByte : M Byte := fun s => .ok (Config.freeByte s.draws) { s with draws := s.draws + 1 }
def drawWord : M Word := fun s => .ok (Config.freeWord s.draws) { s with draws := s.draws + 1 }

/-! ## Taking an exception (60 R410) -/

/-- `kind` of `ExceptionEntry`. -/
inductive ExceptionKind where
  | other
  | interrupt (level : BitVec 3)
  deriving DecidableEq, Repr

/-- `FRAME_WORD(v)` (60 R410). -/
def frameWord (vector : Byte) : Half := 0x1004 ||| BitVec.ofNat 16 (4 * vector.toNat)

/-- `VBR + 4*v` (60 R402). -/
def vectorAddress (s : State) (vector : Byte) : Word := s.vbr + BitVec.ofNat 32 (4 * vector.toNat)

/-- The status word on entry: supervisor, no trace; an interrupt also selects the interrupt stack and its level. -/
def Status.entered (f : Status) : ExceptionKind → Status
  | .other => { f with s := true, t := false }
  | .interrupt level => { f with s := true, t := false, m := false, i := level }

/-- `ExceptionEntry(vector, returnPC, kind)` (60 R410). -/
def exceptionEntry (vector : Byte) (returnPc : Word) (kind : ExceptionKind) : M Unit := do
  let saved ← look State.sr
  change (fun s => s.setSr (saved.entered kind))
  push .w ((frameWord vector).setWidth 32)
  push .l returnPc
  push .w (saved.toWord.setWidth 32)
  let target ← look (fun s => vectorAddress s vector)
  let pc ← readMem target .l
  change (fun s => { s with pc := pc, stopped := false, trap := true })

/-- `raise Exception(vector, PC)`: the stacked program counter is that of the next instruction (60 R411). -/
def raiseNext (vector : Byte) : M Unit := do
  let pc ← look State.pc
  exceptionEntry vector pc .other

/-- A privileged row (60 R404, 47 R329): in user mode vector 8 with the address of the first word, nothing else done. -/
def privileged (body : M Unit) : M Unit := do
  let sup ← look (fun s => s.sr.s)
  if sup then body
  else
    let pc ← look State.pc
    exceptionEntry 8 (pc - 2) .other

/-! ## Returning from an exception (47 R344) -/

/-- `RTE` in supervisor mode: the frame is read whole, then deallocated from the stack it was read from. -/
def exceptionReturn : M Unit := do
  let sp ← look State.sp
  let newSr ← readMem sp .w
  let newPc ← readMem (sp + 2) .l
  let fmt ← readMem (sp + 6) .w
  if fmt.toNat / 2 ^ 12 ≤ 1 then
    change (fun s => s.setSp (sp + 8))
    change (fun s => { s with sr := Status.ofWord (newSr.setWidth 16), pc := newPc })
  else hostFault .badFrameFormat

/-! ## How an instruction ends -/

/-- A register after a host-level fault: any value if the faulting instruction had changed it (60 R420, 93 U6). -/
def afterFault (before now : Word) (draw : Nat) : Word := if now = before then now else Config.freeWord draw

/-- Latching a host-level fault (60 R420): `before` is the state the instruction started from, `now` the one it reached.
`PC` and every changed register become free values (93 U6; log 8). DESIGN CHOICE (log 8): every other partial effect, which
92 D40 calls unspecified, is kept as the instruction left it, the microwire mask and cycle count that its reads and fetches
turned (63 R575) included. -/
def latchFault (before now : State) (r : Fault) : State :=
  { now with
    fault := some r
    pc := Config.freeWord now.draws
    d := Vector.ofFn (fun n : Fin 8 => afterFault before.d[n] now.d[n] (now.draws + 1 + n.val))
    a := Vector.ofFn (fun n : Fin 7 => afterFault before.a[n] now.a[n] (now.draws + 9 + n.val))
    usp := afterFault before.usp now.usp (now.draws + 16)
    ssp := afterFault before.ssp now.ssp (now.draws + 17)
    isp := afterFault before.isp now.isp (now.draws + 18)
    draws := now.draws + 19 }

/-- Running an instruction to its outcome: a host-level fault is latched state, so the outcome is a next state (log 7). -/
def finish (body : M Unit) (s : State) : Host.Outcome State Fault Refusal :=
  match body s with
  | .ok _ s' => .next s'
  | .error (.fault r) s' => .next (latchFault s s' r)
  | .error (.refused r) _ => .refused r

end Sys2Proof.Machine
end

