-- ==== Sys2Proof/Machine/Flags.lean ====
section
/-! DEFINITION. The flag shorthand and the condition tests (00_scope R15, R16). Operands and results are of size `sz`,
zeros above. -/

namespace Sys2Proof.Machine

/-- The carry out of bit `bits(sz) - 1` of `s + d + x` (00_scope R15). -/
def addCarry (sz : Size) (s d : Word) (x : Bool) : Bool := decide (2 ^ bitCount sz ≤ s.toNat + d.toNat + bitNat x)

/-- The overflow of an addition with result `r` (00_scope R15). -/
def addOverflow (sz : Size) (s d r : Word) : Bool := (msbOf sz s == msbOf sz d) && (msbOf sz r != msbOf sz d)

/-- The borrow of `d - s - x` (00_scope R15). -/
def subBorrow (s d : Word) (x : Bool) : Bool := decide (d.toNat < s.toNat + bitNat x)

/-- The overflow of a subtraction with result `r` (00_scope R15). -/
def subOverflow (sz : Size) (s d r : Word) : Bool := (msbOf sz s != msbOf sz d) && (msbOf sz r != msbOf sz d)

/-- `r = 0` for a value of size `sz`. -/
def isZero (sz : Size) (r : Word) : Bool := trunc sz r == 0

/-- `LOGIC(r, sz)` (00_scope R15): `X` unchanged. -/
def Status.logic (f : Status) (sz : Size) (r : Word) : Status :=
  { f with n := msbOf sz r, z := isZero sz r, v := false, c := false }

/-- `ADDFLAGS(s, d, x, r, sz)` (00_scope R15): `C V N`. -/
def Status.addFlags (f : Status) (sz : Size) (s d : Word) (x : Bool) (r : Word) : Status :=
  { f with c := addCarry sz s d x, v := addOverflow sz s d r, n := msbOf sz r }

/-- `SUBFLAGS(s, d, x, r, sz)` (00_scope R15): `C V N`. -/
def Status.subFlags (f : Status) (sz : Size) (s d : Word) (x : Bool) (r : Word) : Status :=
  { f with c := subBorrow s d x, v := subOverflow sz s d r, n := msbOf sz r }

/-- `Z <- (res = 0)`. -/
def Status.zero (f : Status) (sz : Size) (r : Word) : Status := { f with z := isZero sz r }

/-- `if res != 0 then Z <- 0` (the sticky zero of the extended operations). -/
def Status.zeroSticky (f : Status) (sz : Size) (r : Word) : Status := { f with z := f.z && isZero sz r }

/-- `X <- C`. -/
def Status.extendFromCarry (f : Status) : Status := { f with x := f.c }

/-- `cond(cc)` (00_scope R16). -/
def Status.holds (f : Status) : Cond → Bool
  | .t => true
  | .f => false
  | .hi => !f.c && !f.z
  | .ls => f.c || f.z
  | .cc => !f.c
  | .cs => f.c
  | .ne => !f.z
  | .eq => f.z
  | .vc => !f.v
  | .vs => f.v
  | .pl => !f.n
  | .mi => f.n
  | .ge => f.n == f.v
  | .lt => f.n != f.v
  | .gt => !f.z && (f.n == f.v)
  | .le => f.z || (f.n != f.v)

/-- Changing the status word within an instruction. -/
def setFlags (g : Status → Status) : M Unit := change (fun s => s.setSr (g s.sr))

end Sys2Proof.Machine
end

