-- ==== Sys2Proof/Machine/Operands.lean ====
section
/-! DEFINITION. Operand locators, addressing-mode resolution, immediates and branch displacements (00_scope R14,
30_encoding R130..R147, 43 R269). -/

namespace Sys2Proof.Machine

/-- A locator (00_scope R14). -/
inductive Loc where
  | dreg (n : Reg)
  | areg (n : Reg)
  | mem (addr : Word)
  | imm (v : Word)
  deriving DecidableEq, Repr

/-- `Read(loc, sz)` (00_scope R14): the value and the state after the read. -/
def readLocFrom (s : State) (loc : Loc) (sz : Size) : Word × State :=
  match loc with
  | .dreg n => (trunc sz (s.dreg n), s)
  | .areg n => (trunc sz (s.areg n), s)
  | .mem a => memRead s a sz
  | .imm v => (v, s)

/-- `Read(loc, sz)` within an instruction. -/
def readLoc (loc : Loc) (sz : Size) : M Word := fun s => .ok (readLocFrom s loc sz).1 (readLocFrom s loc sz).2

/-- `Write(loc, sz, v)` (00_scope R14); never applied to an immediate. -/
def writeLoc (loc : Loc) (sz : Size) (v : Word) : M Unit :=
  match loc with
  | .dreg n => change (fun s => s.writeD n sz v)
  | .areg n => change (fun s => s.setA n v)
  | .mem a => writeMem a sz v
  | .imm _ => pure ()

/-- `step(sz, n)` of postincrement and predecrement (30_encoding R133). -/
def stepOf (sz : Size) (n : Reg) : Word :=
  match sz with
  | .b => if n.val = 7 then BitVec.ofNat 32 Config.a7ByteStep else 1
  | .w => 2
  | .l => 4

/-- The index register's contribution before scaling (30_encoding R141). -/
def indexValue (s : State) (x : IndexWord) : Word :=
  let r := if x.addrReg then s.areg x.reg else s.dreg x.reg
  if x.long then r else sext16 r

/-- The displacement of an indexed word, fetched if the format is full; the forms of the full format that this hardware
does not have are a host-level fault (30_encoding R141). -/
def indexDisp (x : IndexWord) : M Word :=
  match x.tail with
  | .brief d => pure (d.signExtend 32)
  | .full bs is bdSize bit3 iis =>
    if bs || is || bit3 || iis.val != 0 then hostFault .unsupportedExtensionWord
    else
      match bdSize.val with
      | 2 => do
        let w ← fetch16
        return w.signExtend 32
      | 3 => fetch32
      | _ => hostFault .unsupportedExtensionWord

/-- `Index(base)` (30_encoding R141). -/
def indexAddress (base : Word) : M Word := do
  let w ← fetch16
  let x := decodeIndex w
  let v ← look (fun s => indexValue s x)
  let bd ← indexDisp x
  return base + bd + v <<< x.scale.val

/-- An immediate operand (30_encoding R142, R147). -/
def fetchImm (sz : Size) : M Word :=
  match sz with
  | .b => do
    let w ← fetch16
    return (w.setWidth 8).setWidth 32
  | .w => do
    let w ← fetch16
    return w.setWidth 32
  | .l => fetch32

/-- `EA(mode, reg, sz)` (30_encoding R130..R142). -/
def resolve (e : Ea) (sz : Size) : M Loc :=
  match e with
  | .dn n => pure (.dreg n)
  | .an n => pure (.areg n)
  | .ind n => do
    let a ← look (fun s => s.areg n)
    return .mem a
  | .postinc n => do
    let a ← look (fun s => s.areg n)
    change (fun s => s.setA n (a + stepOf sz n))
    return .mem a
  | .predec n => do
    let a ← look (fun s => s.areg n)
    change (fun s => s.setA n (a - stepOf sz n))
    return .mem (a - stepOf sz n)
  | .disp n => do
    let d ← fetch16
    let a ← look (fun s => s.areg n)
    return .mem (a + d.signExtend 32)
  | .index n => do
    let base ← look (fun s => s.areg n)
    let a ← indexAddress base
    return .mem a
  | .absW => do
    let w ← fetch16
    return .mem (w.signExtend 32)
  | .absL => do
    let a ← fetch32
    return .mem a
  | .pcDisp => do
    let base ← look State.pc
    let d ← fetch16
    return .mem (base + d.signExtend 32)
  | .pcIndex => do
    let base ← look State.pc
    let a ← indexAddress base
    return .mem a
  | .imm => do
    let v ← fetchImm sz
    return .imm v

/-- `Read(EA(mode, r, sz), sz)`. -/
def readEa (e : Ea) (sz : Size) : M Word := do
  let loc ← resolve e sz
  readLoc loc sz

/-- The address of a locator; the control modes, the only ones used so, give `Mem` (30_encoding R143). -/
def Loc.address : Loc → Word
  | .mem a => a
  | _ => 0

/-- "address of EA(mode, r, L)" (30_encoding R143). -/
def resolveAddress (e : Ea) (sz : Size) : M Word := do
  let loc ← resolve e sz
  return loc.address

/-- The data of `ADDQ`, `SUBQ` and of an immediate shift count: 0 means 8 (30_encoding R145). -/
def quickData (q : Reg) : Nat := if q.val = 0 then 8 else q.val

/-- The count of a register shift (43 R269). -/
def shiftCount (s : State) (c : ShiftCount) : Nat :=
  match c with
  | .imm q => quickData q
  | .reg n => (s.dreg n).toNat % 64

/-- A branch displacement (30_encoding R146): `0x00` escapes to 16 bits and `0xFF` to 32 bits. -/
def branchDisp (d : Byte) : M Word :=
  if d = 0x00 then do
    let w ← fetch16
    return w.signExtend 32
  else if d = 0xFF then fetch32
  else pure (d.signExtend 32)

/-- Register `i` of a `MOVEM` list: `D0..D7` then `A0..A7` (40 R173). -/
def State.reg16 (s : State) (i : Fin 16) : Word :=
  if i.val < 8 then s.dreg (Fin.ofNat 8 i.val) else s.areg (Fin.ofNat 8 (i.val - 8))

def State.setReg16 (s : State) (i : Fin 16) (v : Word) : State :=
  if i.val < 8 then s.setD (Fin.ofNat 8 i.val) v else s.setA (Fin.ofNat 8 (i.val - 8)) v

/-- The bits of a `MOVEM` mask that are set, from bit 0 up (40 R173). -/
def maskBits (m : Half) : List (Fin 16) :=
  (List.ofFn (fun i : Fin 16 => i)).filter (fun i => m.getLsbD i.val)

end Sys2Proof.Machine
end

