-- ==== Sys2Proof/Machine/IntegerArithmetic.lean ====
section
/-! DEFINITION. Integer arithmetic instructions (41 R200..R230). -/

namespace Sys2Proof.Machine

/-! ## Shared shapes -/

/-- A sum with its flags: result `trunc_sz(s + d + x)`. -/
def sumOf (sz : Size) (s d : Word) (x : Bool) : Word := trunc sz (s + d + bitWord x)

/-- A difference: result `trunc_sz(d - s - x)`. -/
def diffOf (sz : Size) (s d : Word) (x : Bool) : Word := trunc sz (d - s - bitWord x)

/-- The flags of `ADD`: `ADDFLAGS; Z <- (res = 0); X <- C`. -/
def flagsAdd (sz : Size) (s d : Word) (f : Status) : Status :=
  ((f.addFlags sz s d false (sumOf sz s d false)).zero sz (sumOf sz s d false)).extendFromCarry

/-- The flags of `SUB`: `SUBFLAGS; Z <- (res = 0); X <- C`. -/
def flagsSub (sz : Size) (s d : Word) (f : Status) : Status :=
  ((f.subFlags sz s d false (diffOf sz s d false)).zero sz (diffOf sz s d false)).extendFromCarry

/-- The flags of a comparison: `SUBFLAGS; Z <- (res = 0)`, `X` unchanged. -/
def flagsCmp (sz : Size) (s d : Word) (f : Status) : Status :=
  (f.subFlags sz s d false (diffOf sz s d false)).zero sz (diffOf sz s d false)

/-- The flags of `ADDX`: sticky zero. -/
def flagsAddx (sz : Size) (s d : Word) (f : Status) : Status :=
  ((f.addFlags sz s d f.x (sumOf sz s d f.x)).zeroSticky sz (sumOf sz s d f.x)).extendFromCarry

/-- The flags of `SUBX`: sticky zero. -/
def flagsSubx (sz : Size) (s d : Word) (f : Status) : Status :=
  ((f.subFlags sz s d f.x (diffOf sz s d f.x)).zeroSticky sz (diffOf sz s d f.x)).extendFromCarry

/-- `<ea>,Dn` with the result `op s d`. -/
def eaToDn (n : Reg) (sz : Size) (src : Ea) (op : Word → Word → Word) (g : Word → Word → Status → Status) : M Unit := do
  let s ← readEa src sz
  let d ← look (fun st => trunc sz (st.dreg n))
  change (fun st => st.writeD n sz (op s d))
  setFlags (g s d)

/-- `Dn,<ea>`: one read, then one write through the same locator (00_scope R14). -/
def dnToEa (n : Reg) (sz : Size) (dst : Ea) (op : Word → Word → Word) (g : Word → Word → Status → Status) : M Unit := do
  let loc ← resolve dst sz
  let d ← readLoc loc sz
  let s ← look (fun st => trunc sz (st.dreg n))
  writeLoc loc sz (op s d)
  setFlags (g s d)

/-- `#imm,<ea>`: the immediate comes before the destination's extension words (30_encoding R147). -/
def immToEa (sz : Size) (dst : Ea) (op : Word → Word → Word) (g : Word → Word → Status → Status) : M Unit := do
  let s ← fetchImm sz
  let loc ← resolve dst sz
  let d ← readLoc loc sz
  writeLoc loc sz (op s d)
  setFlags (g s d)

/-- `<ea>` changed in place. -/
def unaryEa (sz : Size) (dst : Ea) (op : Status → Word → Word) (g : Word → Status → Status) : M Unit := do
  let loc ← resolve dst sz
  let d ← readLoc loc sz
  let f ← look State.sr
  writeLoc loc sz (op f d)
  setFlags (g d)

/-- The operands of `ADDX`, `SUBX`, `ABCD` and `SBCD`: two data registers, or `-(Ay),-(Ax)` with the source decremented
and read first (41 R205). Answers the source, the destination's locator and the destination. -/
def pairOperands (sz : Size) (x : Reg) (m : PairMode) (y : Reg) : M (Word × Loc × Word) := do
  match m with
  | .regs => do
    let s ← look (fun st => trunc sz (st.dreg y))
    let d ← readLoc (.dreg x) sz
    return (s, .dreg x, d)
  | .predec => do
    let s ← readEa (.predec y) sz
    let loc ← resolve (.predec x) sz
    let d ← readLoc loc sz
    return (s, loc, d)

/-- `ADDX` and `SUBX`: the result and the flags use the old `X`. -/
def extendedOp (x : Reg) (sz : Size) (m : PairMode) (y : Reg) (op : Word → Word → Bool → Word)
    (g : Word → Word → Status → Status) : M Unit := do
  let o ← pairOperands sz x m y
  let f ← look State.sr
  writeLoc o.2.1 sz (op o.1 o.2.2 f.x)
  setFlags (g o.1 o.2.2)

/-- `ADDA` and `SUBA`: 32 bits, no flags (41 R202, R212). -/
def addressOp (sz : Size) (n : Reg) (src : Ea) (op : Word → Word → Word) : M Unit := do
  let s ← readEa src sz
  change (fun st => st.setA n (op (sextAddr sz s) (st.areg n)))

/-- `CMPA`: always a 32-bit comparison (41 R218). -/
def compareAddress (sz : Size) (n : Reg) (src : Ea) : M Unit := do
  let s ← readEa src sz
  let d ← look (fun st => st.areg n)
  setFlags (flagsCmp .l (sextAddr sz s) d)

/-- `ADDQ` and `SUBQ`: on an address register all 32 bits and no flags (41 R204, R214). -/
def quickOp (q : Reg) (sz : Size) (dst : Ea) (op : Word → Word → Word) (addr : Word → Word → Word)
    (g : Word → Word → Status → Status) : M Unit := do
  let k := BitVec.ofNat 32 (quickData q)
  match dst with
  | .an n => change (fun st => st.setA n (addr k (st.areg n)))
  | e => do
    let loc ← resolve e sz
    let d ← readLoc loc sz
    writeLoc loc sz (op k d)
    setFlags (g k d)

/-! ## Addition -/

/-- 41 R200. -/
def execAddEaDn (n : Reg) (sz : Size) (src : Ea) (s : State) : Host.Outcome State Fault Refusal :=
  finish (eaToDn n sz src (fun s d => sumOf sz s d false) (flagsAdd sz)) s

/-- 41 R201. -/
def execAddDnEa (n : Reg) (sz : Size) (dst : Ea) (s : State) : Host.Outcome State Fault Refusal :=
  finish (dnToEa n sz dst (fun s d => sumOf sz s d false) (flagsAdd sz)) s

/-- 41 R202. -/
def execAddaW (n : Reg) (src : Ea) (s : State) : Host.Outcome State Fault Refusal :=
  finish (addressOp .w n src (fun s d => d + s)) s

/-- 41 R202. -/
def execAddaL (n : Reg) (src : Ea) (s : State) : Host.Outcome State Fault Refusal :=
  finish (addressOp .l n src (fun s d => d + s)) s

/-- 41 R203. -/
def execAddi (sz : Size) (dst : Ea) (s : State) : Host.Outcome State Fault Refusal :=
  finish (immToEa sz dst (fun s d => sumOf sz s d false) (flagsAdd sz)) s

/-- 41 R204. -/
def execAddq (q : Reg) (sz : Size) (dst : Ea) (s : State) : Host.Outcome State Fault Refusal :=
  finish (quickOp q sz dst (fun s d => sumOf sz s d false) (fun k a => a + k) (flagsAdd sz)) s

/-- 41 R205. -/
def execAddx (x : Reg) (sz : Size) (m : PairMode) (y : Reg) (s : State) : Host.Outcome State Fault Refusal :=
  finish (extendedOp x sz m y (fun s d e => sumOf sz s d e) (flagsAddx sz)) s

/-! ## Subtraction -/

/-- 41 R210. -/
def execSubEaDn (n : Reg) (sz : Size) (src : Ea) (s : State) : Host.Outcome State Fault Refusal :=
  finish (eaToDn n sz src (fun s d => diffOf sz s d false) (flagsSub sz)) s

/-- 41 R211. -/
def execSubDnEa (n : Reg) (sz : Size) (dst : Ea) (s : State) : Host.Outcome State Fault Refusal :=
  finish (dnToEa n sz dst (fun s d => diffOf sz s d false) (flagsSub sz)) s

/-- 41 R212. -/
def execSubaW (n : Reg) (src : Ea) (s : State) : Host.Outcome State Fault Refusal :=
  finish (addressOp .w n src (fun s d => d - s)) s

/-- 41 R212. -/
def execSubaL (n : Reg) (src : Ea) (s : State) : Host.Outcome State Fault Refusal :=
  finish (addressOp .l n src (fun s d => d - s)) s

/-- 41 R213. -/
def execSubi (sz : Size) (dst : Ea) (s : State) : Host.Outcome State Fault Refusal :=
  finish (immToEa sz dst (fun s d => diffOf sz s d false) (flagsSub sz)) s

/-- 41 R214. -/
def execSubq (q : Reg) (sz : Size) (dst : Ea) (s : State) : Host.Outcome State Fault Refusal :=
  finish (quickOp q sz dst (fun s d => diffOf sz s d false) (fun k a => a - k) (flagsSub sz)) s

/-- 41 R215. -/
def execSubx (x : Reg) (sz : Size) (m : PairMode) (y : Reg) (s : State) : Host.Outcome State Fault Refusal :=
  finish (extendedOp x sz m y (fun s d e => diffOf sz s d e) (flagsSubx sz)) s

/-! ## Comparison -/

/-- 41 R217. -/
def execCmp (n : Reg) (sz : Size) (src : Ea) (s : State) : Host.Outcome State Fault Refusal :=
  finish (do
    let s ← readEa src sz
    let d ← look (fun st => trunc sz (st.dreg n))
    setFlags (flagsCmp sz s d)) s

/-- 41 R218. -/
def execCmpaW (n : Reg) (src : Ea) (s : State) : Host.Outcome State Fault Refusal := finish (compareAddress .w n src) s

/-- 41 R218. -/
def execCmpaL (n : Reg) (src : Ea) (s : State) : Host.Outcome State Fault Refusal := finish (compareAddress .l n src) s

/-- 41 R219. -/
def execCmpi (sz : Size) (dst : Ea) (s : State) : Host.Outcome State Fault Refusal :=
  finish (do
    let s ← fetchImm sz
    let d ← readEa dst sz
    setFlags (flagsCmp sz s d)) s

/-- 41 R220: the source first. -/
def execCmpm (x : Reg) (sz : Size) (y : Reg) (s : State) : Host.Outcome State Fault Refusal :=
  finish (do
    let s ← readEa (.postinc y) sz
    let d ← readEa (.postinc x) sz
    setFlags (flagsCmp sz s d)) s

/-! ## Clear, negate, extend -/

/-- 41 R223: a write only. -/
def execClr (sz : Size) (dst : Ea) (s : State) : Host.Outcome State Fault Refusal :=
  finish (do
    let loc ← resolve dst sz
    writeLoc loc sz 0
    setFlags (fun f => { f with n := false, z := true, v := false, c := false })) s

/-- 41 R224. -/
def execNeg (sz : Size) (dst : Ea) (s : State) : Host.Outcome State Fault Refusal :=
  finish (unaryEa sz dst (fun _ d => diffOf sz d 0 false) (fun d => flagsSub sz d 0)) s

/-- 41 R225. -/
def execNegx (sz : Size) (dst : Ea) (s : State) : Host.Outcome State Fault Refusal :=
  finish (unaryEa sz dst (fun f d => diffOf sz d 0 f.x) (fun d => flagsSubx sz d 0)) s

/-- `EXT.W Dn` (41 R226). -/
def execExtW (n : Reg) (s : State) : Host.Outcome State Fault Refusal :=
  finish (do
    let v ← look (fun s => trunc .w (sext8 (s.dreg n)))
    change (fun s => s.writeD n .w v)
    setFlags (fun f => f.logic .w v)) s

/-- `EXT.L Dn` (41 R226). -/
def execExtL (n : Reg) (s : State) : Host.Outcome State Fault Refusal :=
  finish (do
    let v ← look (fun s => sext16 (s.dreg n))
    change (fun s => s.setD n v)
    setFlags (fun f => f.logic .l v)) s

/-! ## Multiply and divide -/

/-- `MULU.W <ea>,Dn` (41 R227). -/
def execMulu (n : Reg) (src : Ea) (s : State) : Host.Outcome State Fault Refusal :=
  finish (do
    let s ← readEa src .w
    let d ← look (fun st => trunc .w (st.dreg n))
    change (fun st => st.setD n (trunc .w s * d))
    setFlags (fun f => f.logic .l (trunc .w s * d))) s

/-- `MULS.W <ea>,Dn` (41 R228). -/
def execMuls (n : Reg) (src : Ea) (s : State) : Host.Outcome State Fault Refusal :=
  finish (do
    let s ← readEa src .w
    let d ← look (fun st => st.dreg n)
    change (fun st => st.setD n (BitVec.ofInt 32 (signed16 s * signed16 d)))
    setFlags (fun f => f.logic .l (BitVec.ofInt 32 (signed16 s * signed16 d)))) s

/-- A division by zero (41 R229, R230): `N`, `Z`, `V` any value, `C` clear, then vector 5 (93 U5; log 4). -/
def divideByZero : M Unit := do
  let n ← drawBit
  let z ← drawBit
  let v ← drawBit
  setFlags (fun f => { f with n := n, z := z, v := v, c := false })
  raiseNext 5

/-- A quotient that does not fit (41 R229, R230): the destination unchanged, `N` and `Z` any value (93 U3; log 4). -/
def divideOverflow : M Unit := do
  let n ← drawBit
  let z ← drawBit
  setFlags (fun f => { f with n := n, z := z, v := true, c := false })

/-- A quotient `q` and a remainder `rem` that fit (41 R229, R230). -/
def divideResult (n : Reg) (q rem : Half) : M Unit := do
  change (fun st => st.setD n (rem ++ q))
  setFlags (fun f => { f with n := q.getLsbD 15, z := q == 0, v := false, c := false })

/-- `DIVU.W <ea>,Dn` (41 R229). -/
def execDivu (n : Reg) (src : Ea) (s : State) : Host.Outcome State Fault Refusal :=
  finish (do
    let v ← readEa src .w
    let s := (trunc .w v).toNat
    let d ← look (fun st => (st.dreg n).toNat)
    if s = 0 then divideByZero
    else if 0xFFFF < d / s then divideOverflow
    else divideResult n (BitVec.ofNat 16 (d / s)) (BitVec.ofNat 16 (d % s))) s

/-- `DIVS.W <ea>,Dn` (41 R230): the quotient is rounded toward zero. -/
def execDivs (n : Reg) (src : Ea) (s : State) : Host.Outcome State Fault Refusal :=
  finish (do
    let v ← readEa src .w
    let s := signed16 v
    let d ← look (fun st => signed32 (st.dreg n))
    if s = 0 then divideByZero
    else if d.tdiv s < -32768 ∨ 32767 < d.tdiv s then divideOverflow
    else divideResult n (BitVec.ofInt 16 (d.tdiv s)) (BitVec.ofInt 16 (d - d.tdiv s * s))) s

end Sys2Proof.Machine
end

