-- ==== Sys2Proof/Machine/Bcd.lean ====
section
/-! DEFINITION. Binary-coded-decimal instructions (45 R289..R292). Where an operand holds a digit above 9 the result and
all five flags are free values, and `N` and `V` are free always (93 U1, U2; log 3). -/

namespace Sys2Proof.Machine

/-- A valid packed decimal (45 R289). -/
def validBcd (v : Word) : Bool := decide (v.toNat / 16 % 16 ≤ 9) && decide (v.toNat % 16 ≤ 9)

/-- `dec(v)` (45 R289). -/
def decOf (v : Word) : Nat := 10 * (v.toNat / 16 % 16) + v.toNat % 16

/-- `bcd(t)` for `0 <= t <= 99` (45 R289). -/
def bcdOf (t : Nat) : Word := BitVec.ofNat 32 (16 * (t / 10) + t % 10)

/-- Writing the result and the flags of a decimal sum or difference: `t` is its value before `mod 100`, `carry` its carry
or borrow; with an invalid operand everything is free (45 R289..R292). -/
def bcdFinish (loc : Loc) (valid : Bool) (t : Int) (carry : Bool) : M Unit := do
  let n ← drawBit
  let v ← drawBit
  if valid then do
    let res := bcdOf (t % 100).toNat
    writeLoc loc .b res
    setFlags (fun f => { f with c := carry, x := carry, z := f.z && res == 0, n := n, v := v })
  else do
    let res ← drawByte
    let x ← drawBit
    let z ← drawBit
    let c ← drawBit
    writeLoc loc .b (res.setWidth 32)
    setFlags (fun f => { f with c := c, x := x, z := z, n := n, v := v })

/-- `ABCD` (45 R290). -/
def execAbcd (x : Reg) (m : PairMode) (y : Reg) (s : State) : Host.Outcome State Fault Refusal :=
  finish (do
    let o ← pairOperands .b x m y
    let f ← look State.sr
    let t := decOf o.1 + decOf o.2.2 + bitNat f.x
    bcdFinish o.2.1 (validBcd o.1 && validBcd o.2.2) t (decide (99 < t))) s

/-- `SBCD` (45 R291). -/
def execSbcd (x : Reg) (m : PairMode) (y : Reg) (s : State) : Host.Outcome State Fault Refusal :=
  finish (do
    let o ← pairOperands .b x m y
    let f ← look State.sr
    let t : Int := (decOf o.2.2 : Int) - decOf o.1 - bitNat f.x
    bcdFinish o.2.1 (validBcd o.1 && validBcd o.2.2) t (decide (t < 0))) s

/-- `NBCD` (45 R292). -/
def execNbcd (dst : Ea) (s : State) : Host.Outcome State Fault Refusal :=
  finish (do
    let loc ← resolve dst .b
    let d ← readLoc loc .b
    let f ← look State.sr
    let t : Int := 0 - (decOf d : Int) - bitNat f.x
    bcdFinish loc (validBcd d) t (decide (t < 0))) s

end Sys2Proof.Machine
end

