-- ==== Sys2Proof/Machine/BitManipulation.lean ====
section
/-! DEFINITION. Bit manipulation instructions (44 R280..R284). -/

namespace Sys2Proof.Machine

/-- A data register is tested whole; anything else is one byte (44 R280). -/
def bitSize : Ea → Size
  | .dn _ => .l
  | _ => .b

/-- The bit number modulo the operand's width (44 R280). -/
def bitIndex (e : Ea) (bn : Nat) : Nat := bn % bitCount (bitSize e)

/-- `1 << k`. -/
def bitMask (k : Nat) : Word := BitVec.ofNat 32 (2 ^ k)

/-- `BTST` (44 R281): nothing is written. -/
def bitTest (e : Ea) (bn : Nat) : M Unit := do
  let d ← readEa e (bitSize e)
  setFlags (fun f => { f with z := !d.getLsbD (bitIndex e bn) })

/-- `BCHG`, `BCLR`, `BSET` (44 R282..R284): `Z` from the bit before it changes. -/
def bitChange (e : Ea) (bn : Nat) (op : Word → Word → Word) : M Unit := do
  let loc ← resolve e (bitSize e)
  let d ← readLoc loc (bitSize e)
  setFlags (fun f => { f with z := !d.getLsbD (bitIndex e bn) })
  writeLoc loc (bitSize e) (op d (bitMask (bitIndex e bn)))

/-- The static bit number: bits 7:0 of the word after the first (44 R280). -/
def staticBit : M Nat := do
  let w ← fetch16
  return w.toNat % 256

/-- The dynamic bit number (44 R280). -/
def dynamicBit (n : Reg) : M Nat := look (fun s => (s.dreg n).toNat)

/-- 44 R281, static form. -/
def execBtstImm (dst : Ea) (s : State) : Host.Outcome State Fault Refusal :=
  finish (do
    let bn ← staticBit
    bitTest dst bn) s

/-- 44 R281, dynamic form. -/
def execBtstReg (n : Reg) (dst : Ea) (s : State) : Host.Outcome State Fault Refusal :=
  finish (do
    let bn ← dynamicBit n
    bitTest dst bn) s

/-- 44 R282, static form. -/
def execBchgImm (dst : Ea) (s : State) : Host.Outcome State Fault Refusal :=
  finish (do
    let bn ← staticBit
    bitChange dst bn (fun d m => d ^^^ m)) s

/-- 44 R282, dynamic form. -/
def execBchgReg (n : Reg) (dst : Ea) (s : State) : Host.Outcome State Fault Refusal :=
  finish (do
    let bn ← dynamicBit n
    bitChange dst bn (fun d m => d ^^^ m)) s

/-- 44 R283, static form. -/
def execBclrImm (dst : Ea) (s : State) : Host.Outcome State Fault Refusal :=
  finish (do
    let bn ← staticBit
    bitChange dst bn (fun d m => d &&& ~~~ m)) s

/-- 44 R283, dynamic form. -/
def execBclrReg (n : Reg) (dst : Ea) (s : State) : Host.Outcome State Fault Refusal :=
  finish (do
    let bn ← dynamicBit n
    bitChange dst bn (fun d m => d &&& ~~~ m)) s

/-- 44 R284, static form. -/
def execBsetImm (dst : Ea) (s : State) : Host.Outcome State Fault Refusal :=
  finish (do
    let bn ← staticBit
    bitChange dst bn (fun d m => d ||| m)) s

/-- 44 R284, dynamic form. -/
def execBsetReg (n : Reg) (dst : Ea) (s : State) : Host.Outcome State Fault Refusal :=
  finish (do
    let bn ← dynamicBit n
    bitChange dst bn (fun d m => d ||| m)) s

end Sys2Proof.Machine
end

