-- ==== Sys2Proof/Machine/DataMovement.lean ====
section
/-! DEFINITION. Data movement instructions (40 R170..R181). -/

namespace Sys2Proof.Machine

/-! ## MOVE -/

/-- `MOVE.s <ea>,<ea>`: the source is read before the destination is resolved (40 R170). -/
def moveOp (sz : Size) (dst src : Ea) : M Unit := do
  let v ← readEa src sz
  let loc ← resolve dst sz
  writeLoc loc sz v
  setFlags (fun f => f.logic sz v)

/-- `MOVEA.s <ea>,An` (40 R171). -/
def moveaOp (sz : Size) (n : Reg) (src : Ea) : M Unit := do
  let v ← readEa src sz
  change (fun s => s.setA n (sextAddr sz v))

def execMoveB (dst src : Ea) (s : State) : Host.Outcome State Fault Refusal := finish (moveOp .b dst src) s
def execMoveW (dst src : Ea) (s : State) : Host.Outcome State Fault Refusal := finish (moveOp .w dst src) s
def execMoveL (dst src : Ea) (s : State) : Host.Outcome State Fault Refusal := finish (moveOp .l dst src) s
def execMoveaW (n : Reg) (src : Ea) (s : State) : Host.Outcome State Fault Refusal := finish (moveaOp .w n src) s
def execMoveaL (n : Reg) (src : Ea) (s : State) : Host.Outcome State Fault Refusal := finish (moveaOp .l n src) s

/-- `MOVEQ #d8,Dn` (40 R172). -/
def execMoveq (n : Reg) (d : Byte) (s : State) : Host.Outcome State Fault Refusal :=
  finish (do
    change (fun s => s.setD n (d.signExtend 32))
    setFlags (fun f => f.logic .l (d.signExtend 32))) s

/-! ## MOVEM -/

def movemSize (long : Bool) : Size := if long then .l else .w

/-- The stores of the `-(An)` form, at descending addresses (40 R174); answers the last address. -/
def storeDown (sz : Size) : List Word → Word → M Word
  | [], a => pure a
  | v :: rest, a => do
    writeMem (a - BitVec.ofNat 32 (byteCount sz)) sz (trunc sz v)
    storeDown sz rest (a - BitVec.ofNat 32 (byteCount sz))

/-- The stores of the other forms, at ascending addresses (40 R174). -/
def storeUp (sz : Size) : List (Fin 16) → Word → M Unit
  | [], _ => pure ()
  | i :: rest, a => do
    let v ← look (fun s => s.reg16 i)
    writeMem a sz (trunc sz v)
    storeUp sz rest (a + BitVec.ofNat 32 (byteCount sz))

/-- The loads (40 R175); answers the address after the last. -/
def loadUp (sz : Size) : List (Fin 16) → Word → M Word
  | [], a => pure a
  | i :: rest, a => do
    let v ← readMem a sz
    change (fun s => s.setReg16 i (sextAddr sz v))
    loadUp sz rest (a + BitVec.ofNat 32 (byteCount sz))

/-- Register `15 - i` of the reversed mask of `-(An)` (40 R173). -/
def reversed (i : Fin 16) : Fin 16 := Fin.rev i

/-- `MOVEM.s <list>,<ea>` (40 R174): `-(An)` stores the initial values downwards, the other modes upwards. -/
def execMovemToMem (long : Bool) (dst : Ea) (s : State) : Host.Outcome State Fault Refusal :=
  finish (do
    let m ← fetch16
    match dst with
    | .predec r => do
      let a ← look (fun s => s.areg r)
      let init ← look (fun s => (maskBits m).map (fun i => s.reg16 (reversed i)))
      let final ← storeDown (movemSize long) init a
      change (fun s => s.setA r final)
    | e => do
      let a ← resolveAddress e (movemSize long)
      storeUp (movemSize long) (maskBits m) a) s

/-- `MOVEM.s <ea>,<list>` (40 R175): in the `(An)+` form the final address overwrites `An`. -/
def execMovemToRegs (long : Bool) (src : Ea) (s : State) : Host.Outcome State Fault Refusal :=
  finish (do
    let m ← fetch16
    match src with
    | .postinc r => do
      let a ← look (fun s => s.areg r)
      let final ← loadUp (movemSize long) (maskBits m) a
      change (fun s => s.setA r final)
    | e => do
      let a ← resolveAddress e (movemSize long)
      let _final ← loadUp (movemSize long) (maskBits m) a
      pure ()) s

/-! ## MOVEP -/

/-- Byte stores at `a, a+2, ...`, the most significant byte first (40 R176). -/
def movepStore : List Byte → Word → M Unit
  | [], _ => pure ()
  | b :: rest, a => do
    writeMem a .b (b.setWidth 32)
    movepStore rest (a + 2)

/-- Byte reads at `a, a+2, ...`, shifted in from the right (40 R176). -/
def movepLoad : Nat → Word → Word → M Word
  | 0, v, _ => pure v
  | k + 1, v, a => do
    let b ← readMem a .b
    movepLoad k (v <<< 8 ||| b) (a + 2)

/-- The bytes of a register that `MOVEP` stores (40 R176). -/
def movepBytes (long : Bool) (v : Word) : List Byte :=
  if long then [byteOf .l v 0, byteOf .l v 1, byteOf .l v 2, byteOf .l v 3] else [byteOf .w v 0, byteOf .w v 1]

/-- `MOVEP.s Dx,(d16,Ay)` and `MOVEP.s (d16,Ay),Dx` (40 R176). -/
def execMovep (x : Reg) (toMem long : Bool) (y : Reg) (s : State) : Host.Outcome State Fault Refusal :=
  finish (do
    let base ← look (fun s => s.areg y)
    let d ← fetch16
    if toMem then do
      let v ← look (fun s => s.dreg x)
      movepStore (movepBytes long v) (base + d.signExtend 32)
    else do
      let v ← movepLoad (if long then 4 else 2) 0 (base + d.signExtend 32)
      change (fun s => s.writeD x (if long then .l else .w) v)) s

/-! ## Addresses, exchange, stack frames -/

/-- `LEA <ea>,An` (40 R177). -/
def execLea (n : Reg) (src : Ea) (s : State) : Host.Outcome State Fault Refusal :=
  finish (do
    let a ← resolveAddress src .l
    change (fun s => s.setA n a)) s

/-- `PEA <ea>`: the address is computed before the push (40 R178). -/
def execPea (src : Ea) (s : State) : Host.Outcome State Fault Refusal :=
  finish (do
    let a ← resolveAddress src .l
    push .l a) s

/-- `EXG Dx,Dy` (40 R179). -/
def execExgDD (x y : Reg) (s : State) : Host.Outcome State Fault Refusal :=
  finish (change (fun s => (s.setD x (s.dreg y)).setD y (s.dreg x))) s

/-- `EXG Ax,Ay` (40 R179). -/
def execExgAA (x y : Reg) (s : State) : Host.Outcome State Fault Refusal :=
  finish (change (fun s => (s.setA x (s.areg y)).setA y (s.areg x))) s

/-- `EXG Dx,Ay` (40 R179). -/
def execExgDA (x y : Reg) (s : State) : Host.Outcome State Fault Refusal :=
  finish (change (fun s => (s.setD x (s.areg y)).setA y (s.dreg x))) s

/-- `LINK An,#d16` (40 R180); for `A7` the long word pushed is any value (93 U9; log 6). -/
def execLink (n : Reg) (s : State) : Host.Outcome State Fault Refusal :=
  finish (do
    let w ← fetch16
    let v ← if n.val = 7 then drawWord else look (fun s => s.areg n)
    push .l v
    let sp ← look State.sp
    change (fun s => s.setA n sp)
    change (fun s => s.setSp (s.sp + w.signExtend 32))) s

/-- `UNLK An` (40 R181); for `A7` the final stack pointer is any value (93 U9; log 6). -/
def execUnlk (n : Reg) (s : State) : Host.Outcome State Fault Refusal :=
  finish (do
    let a ← look (fun s => s.areg n)
    change (fun s => s.setSp a)
    let v ← pop .l
    if n.val = 7 then do
      let any ← drawWord
      change (fun s => s.setSp any)
    else change (fun s => s.setA n v)) s

end Sys2Proof.Machine
end

