-- ==== Sys2Proof/Machine/Logical.lean ====
section
/-! DEFINITION. Logical instructions (42 R240..R252). -/

namespace Sys2Proof.Machine

/-- `LOGIC` of the result. -/
def flagsLogic (sz : Size) (r : Word) (f : Status) : Status := f.logic sz r

/-- `<ea>,Dn` (42 R240, R244). -/
def logicEaDn (n : Reg) (sz : Size) (src : Ea) (op : Word → Word → Word) : M Unit := do
  let s ← readEa src sz
  let d ← look (fun st => trunc sz (st.dreg n))
  change (fun st => st.writeD n sz (op s d))
  setFlags (flagsLogic sz (op s d))

/-- `Dn,<ea>` (42 R241, R245, R249). -/
def logicDnEa (n : Reg) (sz : Size) (dst : Ea) (op : Word → Word → Word) : M Unit := do
  let loc ← resolve dst sz
  let d ← readLoc loc sz
  let s ← look (fun st => trunc sz (st.dreg n))
  writeLoc loc sz (op s d)
  setFlags (flagsLogic sz (op s d))

/-- `#imm,<ea>` (42 R242, R246, R250). -/
def logicImm (sz : Size) (dst : Ea) (op : Word → Word → Word) : M Unit := do
  let s ← fetchImm sz
  let loc ← resolve dst sz
  let d ← readLoc loc sz
  writeLoc loc sz (op s d)
  setFlags (flagsLogic sz (op s d))

/-- `#imm8,CCR` (42 R243, R247, R251). -/
def logicCcr (op : Half → Half → Half) : M Unit := do
  let w ← fetch16
  setFlags (fun f => f.withCcr (op f.toWord w))

/-- 42 R240. -/
def execAndEaDn (n : Reg) (sz : Size) (src : Ea) (s : State) : Host.Outcome State Fault Refusal :=
  finish (logicEaDn n sz src (fun s d => s &&& d)) s

/-- 42 R241. -/
def execAndDnEa (n : Reg) (sz : Size) (dst : Ea) (s : State) : Host.Outcome State Fault Refusal :=
  finish (logicDnEa n sz dst (fun s d => d &&& s)) s

/-- 42 R242. -/
def execAndi (sz : Size) (dst : Ea) (s : State) : Host.Outcome State Fault Refusal :=
  finish (logicImm sz dst (fun s d => d &&& s)) s

/-- 42 R243. -/
def execAndiToCcr (s : State) : Host.Outcome State Fault Refusal := finish (logicCcr (fun f w => f &&& w)) s

/-- 42 R244. -/
def execOrEaDn (n : Reg) (sz : Size) (src : Ea) (s : State) : Host.Outcome State Fault Refusal :=
  finish (logicEaDn n sz src (fun s d => s ||| d)) s

/-- 42 R245. -/
def execOrDnEa (n : Reg) (sz : Size) (dst : Ea) (s : State) : Host.Outcome State Fault Refusal :=
  finish (logicDnEa n sz dst (fun s d => d ||| s)) s

/-- 42 R246. -/
def execOri (sz : Size) (dst : Ea) (s : State) : Host.Outcome State Fault Refusal :=
  finish (logicImm sz dst (fun s d => d ||| s)) s

/-- 42 R247. -/
def execOriToCcr (s : State) : Host.Outcome State Fault Refusal := finish (logicCcr (fun f w => f ||| w)) s

/-- 42 R249. -/
def execEor (n : Reg) (sz : Size) (dst : Ea) (s : State) : Host.Outcome State Fault Refusal :=
  finish (logicDnEa n sz dst (fun s d => d ^^^ s)) s

/-- 42 R250. -/
def execEori (sz : Size) (dst : Ea) (s : State) : Host.Outcome State Fault Refusal :=
  finish (logicImm sz dst (fun s d => d ^^^ s)) s

/-- 42 R251. -/
def execEoriToCcr (s : State) : Host.Outcome State Fault Refusal := finish (logicCcr (fun f w => f ^^^ w)) s

/-- 42 R252. -/
def execNotOp (sz : Size) (dst : Ea) (s : State) : Host.Outcome State Fault Refusal :=
  finish (do
    let loc ← resolve dst sz
    let d ← readLoc loc sz
    writeLoc loc sz (trunc sz (~~~ d))
    setFlags (flagsLogic sz (trunc sz (~~~ d)))) s

end Sys2Proof.Machine
end

