-- ==== Sys2Proof/Machine/ProgramControl.lean ====
section
/-! DEFINITION. Program control instructions (46 R300..R312). -/

namespace Sys2Proof.Machine

/-- A branch to `base + disp`, `base` being the address after the first word (30_encoding R146). -/
def branchTo (base disp : Word) : M Unit := change (fun s => s.setPc (base + disp))

/-- `Bcc <label>` (46 R300): the extension words are fetched whether or not the branch is taken. -/
def execBcc (c : Cond) (d : Byte) (s : State) : Host.Outcome State Fault Refusal :=
  finish (do
    let base ← look State.pc
    let disp ← branchDisp d
    let f ← look State.sr
    if f.holds c then branchTo base disp else pure ()) s

/-- `BRA <label>` (46 R301). -/
def execBra (d : Byte) (s : State) : Host.Outcome State Fault Refusal :=
  finish (do
    let base ← look State.pc
    let disp ← branchDisp d
    branchTo base disp) s

/-- `BSR <label>` (46 R302). -/
def execBsr (d : Byte) (s : State) : Host.Outcome State Fault Refusal :=
  finish (do
    let base ← look State.pc
    let disp ← branchDisp d
    let next ← look State.pc
    push .l next
    branchTo base disp) s

/-- `DBcc Dn,<label>` (46 R304). -/
def execDbcc (c : Cond) (n : Reg) (s : State) : Host.Outcome State Fault Refusal :=
  finish (do
    let base ← look State.pc
    let w ← fetch16
    let f ← look State.sr
    if f.holds c then pure ()
    else do
      let k ← look (fun s => (s.dreg n).setWidth 16 - 1)
      change (fun s => s.writeD n .w (k.setWidth 32))
      if k = 0xFFFF then pure () else branchTo base (w.signExtend 32)) s

/-- `Scc <ea>` (46 R305): a write only. -/
def execScc (c : Cond) (dst : Ea) (s : State) : Host.Outcome State Fault Refusal :=
  finish (do
    let loc ← resolve dst .b
    let f ← look State.sr
    writeLoc loc .b (if f.holds c then 0xFF else 0x00)) s

/-- `JMP <ea>` (46 R306). -/
def execJmp (dst : Ea) (s : State) : Host.Outcome State Fault Refusal :=
  finish (do
    let t ← resolveAddress dst .l
    change (fun s => s.setPc t)) s

/-- `JSR <ea>` (46 R307): the target is computed before the push. -/
def execJsr (dst : Ea) (s : State) : Host.Outcome State Fault Refusal :=
  finish (do
    let t ← resolveAddress dst .l
    let next ← look State.pc
    push .l next
    change (fun s => s.setPc t)) s

/-- `NOP` (46 R308). -/
def execNop (s : State) : Host.Outcome State Fault Refusal := finish (pure ()) s

/-- `RTS` (46 R309). -/
def execRts (s : State) : Host.Outcome State Fault Refusal :=
  finish (do
    let pc ← pop .l
    change (fun s => s.setPc pc)) s

/-- `RTR` (46 R310). -/
def execRtr (s : State) : Host.Outcome State Fault Refusal :=
  finish (do
    let w ← pop .w
    setFlags (fun f => f.withCcr (w.setWidth 16))
    let pc ← pop .l
    change (fun s => s.setPc pc)) s

/-- `TST.s <ea>` (46 R312). -/
def execTst (sz : Size) (dst : Ea) (s : State) : Host.Outcome State Fault Refusal :=
  finish (do
    let d ← readEa dst sz
    setFlags (fun f => f.logic sz d)) s

end Sys2Proof.Machine
end

