-- ==== Sys2Proof/Machine/ShiftRotate.lean ====
section
/-! DEFINITION. Shift and rotate instructions (43 R260..R269). -/

namespace Sys2Proof.Machine

/-- The eight shifts and rotates. -/
inductive ShiftKind where
  | asl | asr | lsl | lsr | rol | ror | roxl | roxr
  deriving DecidableEq, Repr

/-- What the single-bit steps carry: the operand, `X`, `C` and `V`. -/
structure ShiftAcc where
  v : Word
  x : Bool
  c : Bool
  ov : Bool
  deriving DecidableEq, Repr

/-- The most significant bit of a value of size `sz`, as a value. -/
def topBit (sz : Size) (b : Bool) : Word := bitWord b <<< (bitCount sz - 1)

/-- One single-bit step (43 R260..R267). -/
def shiftStep (k : ShiftKind) (sz : Size) (a : ShiftAcc) : ShiftAcc :=
  let hi := msbOf sz a.v
  let lo := a.v.getLsbD 0
  let left := trunc sz (a.v <<< 1)
  let right := a.v >>> 1
  match k with
  | .asl => { v := left, x := hi, c := hi, ov := a.ov || (msbOf sz left != hi) }
  | .asr => { v := right ||| topBit sz hi, x := lo, c := lo, ov := a.ov }
  | .lsl => { v := left, x := hi, c := hi, ov := a.ov }
  | .lsr => { v := right, x := lo, c := lo, ov := a.ov }
  | .rol => { v := left ||| bitWord hi, x := a.x, c := hi, ov := a.ov }
  | .ror => { v := right ||| topBit sz lo, x := a.x, c := lo, ov := a.ov }
  | .roxl => { v := left ||| bitWord a.x, x := hi, c := hi, ov := a.ov }
  | .roxr => { v := right ||| topBit sz a.x, x := lo, c := lo, ov := a.ov }

/-- `repeat count times` (43 R269). -/
def shiftLoop (k : ShiftKind) (sz : Size) : Nat → ShiftAcc → ShiftAcc
  | 0, a => a
  | n + 1, a => shiftLoop k sz n (shiftStep k sz a)

/-- `C` before the first step: `X` for the rotates through extend, else 0 (43 R266, R267). -/
def shiftCarryIn (k : ShiftKind) (x : Bool) : Bool :=
  match k with
  | .roxl => x
  | .roxr => x
  | _ => false

/-- The whole loop from an operand `v` and an extend bit `x`. -/
def shiftRun (k : ShiftKind) (sz : Size) (count : Nat) (v : Word) (x : Bool) : ShiftAcc :=
  shiftLoop k sz count { v := v, x := x, c := shiftCarryIn k x, ov := false }

/-- The flags after the loop: `N Z` from the result, `V`, `C` and `X` as the steps left them (43 R269). -/
def Status.shifted (f : Status) (sz : Size) (a : ShiftAcc) : Status :=
  { f with x := a.x, n := msbOf sz a.v, z := isZero sz a.v, v := a.ov, c := a.c }

/-- The register form (43 R269): the count is read before the operand changes. -/
def shiftReg (k : ShiftKind) (c : ShiftCount) (sz : Size) (n : Reg) : M Unit := do
  let count ← look (fun s => shiftCount s c)
  let v ← readLoc (.dreg n) sz
  let f ← look State.sr
  writeLoc (.dreg n) sz (shiftRun k sz count v f.x).v
  setFlags (fun f => f.shifted sz (shiftRun k sz count v f.x))

/-- The memory form (43 R269): a word, shifted once. -/
def shiftMem (k : ShiftKind) (dst : Ea) : M Unit := do
  let loc ← resolve dst .w
  let v ← readLoc loc .w
  let f ← look State.sr
  writeLoc loc .w (shiftRun k .w 1 v f.x).v
  setFlags (fun f => f.shifted .w (shiftRun k .w 1 v f.x))

/-- 43 R261, register form. -/
def execAsrReg (c : ShiftCount) (sz : Size) (n : Reg) (s : State) : Host.Outcome State Fault Refusal :=
  finish (shiftReg .asr c sz n) s

/-- 43 R261, memory form. -/
def execAsrMem (dst : Ea) (s : State) : Host.Outcome State Fault Refusal := finish (shiftMem .asr dst) s

/-- 43 R260, register form. -/
def execAslReg (c : ShiftCount) (sz : Size) (n : Reg) (s : State) : Host.Outcome State Fault Refusal :=
  finish (shiftReg .asl c sz n) s

/-- 43 R260, memory form. -/
def execAslMem (dst : Ea) (s : State) : Host.Outcome State Fault Refusal := finish (shiftMem .asl dst) s

/-- 43 R263, register form. -/
def execLsrReg (c : ShiftCount) (sz : Size) (n : Reg) (s : State) : Host.Outcome State Fault Refusal :=
  finish (shiftReg .lsr c sz n) s

/-- 43 R263, memory form. -/
def execLsrMem (dst : Ea) (s : State) : Host.Outcome State Fault Refusal := finish (shiftMem .lsr dst) s

/-- 43 R262, register form. -/
def execLslReg (c : ShiftCount) (sz : Size) (n : Reg) (s : State) : Host.Outcome State Fault Refusal :=
  finish (shiftReg .lsl c sz n) s

/-- 43 R262, memory form. -/
def execLslMem (dst : Ea) (s : State) : Host.Outcome State Fault Refusal := finish (shiftMem .lsl dst) s

/-- 43 R267, register form. -/
def execRoxrReg (c : ShiftCount) (sz : Size) (n : Reg) (s : State) : Host.Outcome State Fault Refusal :=
  finish (shiftReg .roxr c sz n) s

/-- 43 R267, memory form. -/
def execRoxrMem (dst : Ea) (s : State) : Host.Outcome State Fault Refusal := finish (shiftMem .roxr dst) s

/-- 43 R266, register form. -/
def execRoxlReg (c : ShiftCount) (sz : Size) (n : Reg) (s : State) : Host.Outcome State Fault Refusal :=
  finish (shiftReg .roxl c sz n) s

/-- 43 R266, memory form. -/
def execRoxlMem (dst : Ea) (s : State) : Host.Outcome State Fault Refusal := finish (shiftMem .roxl dst) s

/-- 43 R265, register form. -/
def execRorReg (c : ShiftCount) (sz : Size) (n : Reg) (s : State) : Host.Outcome State Fault Refusal :=
  finish (shiftReg .ror c sz n) s

/-- 43 R265, memory form. -/
def execRorMem (dst : Ea) (s : State) : Host.Outcome State Fault Refusal := finish (shiftMem .ror dst) s

/-- 43 R264, register form. -/
def execRolReg (c : ShiftCount) (sz : Size) (n : Reg) (s : State) : Host.Outcome State Fault Refusal :=
  finish (shiftReg .rol c sz n) s

/-- 43 R264, memory form. -/
def execRolMem (dst : Ea) (s : State) : Host.Outcome State Fault Refusal := finish (shiftMem .rol dst) s

/-- `SWAP Dn` (43 R268). -/
def execSwap (n : Reg) (s : State) : Host.Outcome State Fault Refusal :=
  finish (do
    let v ← look (fun s => (s.dreg n).extractLsb' 0 16 ++ (s.dreg n).extractLsb' 16 16)
    change (fun s => s.setD n v)
    setFlags (fun f => f.logic .l v)) s

end Sys2Proof.Machine
end

