-- ==== Sys2Proof/Machine/SystemControl.lean ====
section
/-! DEFINITION. System control instructions (47 R329..R347). -/

namespace Sys2Proof.Machine

/-- `MOVE <ea>,CCR` (47 R330). -/
def execMoveToCcr (src : Ea) (s : State) : Host.Outcome State Fault Refusal :=
  finish (do
    let v ← readEa src .w
    setFlags (fun f => f.withCcr (v.setWidth 16))) s

/-- `MOVE SR,<ea>` (47 R331): not privileged, a write only. -/
def execMoveFromSr (dst : Ea) (s : State) : Host.Outcome State Fault Refusal :=
  finish (do
    let loc ← resolve dst .w
    let f ← look State.sr
    writeLoc loc .w (f.toWord.setWidth 32)) s

/-- `MOVE <ea>,SR` (47 R332). -/
def execMoveToSr (src : Ea) (s : State) : Host.Outcome State Fault Refusal :=
  finish (privileged (do
    let v ← readEa src .w
    setFlags (fun _ => Status.ofWord (v.setWidth 16)))) s

/-- The immediate operations on the whole status word (47 R336..R338). -/
def logicSr (op : Half → Half → Half) : M Unit :=
  privileged (do
    let w ← fetch16
    setFlags (fun f => Status.ofWord (op f.toWord w)))

/-- 47 R336. -/
def execAndiToSr (s : State) : Host.Outcome State Fault Refusal := finish (logicSr (fun f w => f &&& w)) s

/-- 47 R337. -/
def execOriToSr (s : State) : Host.Outcome State Fault Refusal := finish (logicSr (fun f w => f ||| w)) s

/-- 47 R338. -/
def execEoriToSr (s : State) : Host.Outcome State Fault Refusal := finish (logicSr (fun f w => f ^^^ w)) s

/-- `MOVE An,USP` (47 R333). -/
def execMoveAnUsp (n : Reg) (s : State) : Host.Outcome State Fault Refusal :=
  finish (privileged (change (fun s => { s with usp := s.areg n }))) s

/-- `MOVE USP,An` (47 R334). -/
def execMoveUspAn (n : Reg) (s : State) : Host.Outcome State Fault Refusal :=
  finish (privileged (change (fun s => s.setA n s.usp))) s

/-- `TRAP #v` (47 R340). -/
def execTrap (v : Fin 16) (s : State) : Host.Outcome State Fault Refusal :=
  finish (raiseNext (BitVec.ofNat 8 (32 + v.val))) s

/-- `TRAPV` (47 R341). -/
def execTrapv (s : State) : Host.Outcome State Fault Refusal :=
  finish (do
    let f ← look State.sr
    if f.v then raiseNext 7 else pure ()) s

/-- `CHK <ea>,Dn` (47 R342): `Z V C` any value; `N` set, clear, or any value within bounds (93 U4; log 5). -/
def execChk (n : Reg) (src : Ea) (s : State) : Host.Outcome State Fault Refusal :=
  finish (do
    let b ← readEa src .w
    let d ← look (fun st => signed16 (st.dreg n))
    let z ← drawBit
    let v ← drawBit
    let c ← drawBit
    setFlags (fun f => { f with z := z, v := v, c := c })
    if d < 0 then do
      setFlags (fun f => { f with n := true })
      raiseNext 6
    else if signed16 b < d then do
      setFlags (fun f => { f with n := false })
      raiseNext 6
    else do
      let any ← drawBit
      setFlags (fun f => { f with n := any })) s

/-- `RTE` (47 R344). -/
def execRte (s : State) : Host.Outcome State Fault Refusal := finish (privileged exceptionReturn) s

/-- `TAS <ea>` (47 R345): one read, then one write. -/
def execTas (dst : Ea) (s : State) : Host.Outcome State Fault Refusal :=
  finish (do
    let loc ← resolve dst .b
    let d ← readLoc loc .b
    setFlags (fun f => f.logic .b d)
    writeLoc loc .b (d ||| 0x80)) s

/-- `STOP #imm16` (47 R346). -/
def execStop (s : State) : Host.Outcome State Fault Refusal :=
  finish (privileged (do
    let w ← fetch16
    change (fun s => { s with sr := Status.ofWord w, stopped := true }))) s

/-- `RESET` (47 R347): in supervisor mode a host-level fault. -/
def execReset (s : State) : Host.Outcome State Fault Refusal := finish (privileged (hostFault .resetInstruction)) s

end Sys2Proof.Machine
end

