-- ==== Sys2Proof/Machine/Dispatch.lean ====
section
/-! DEFINITION. The dispatch: one arm per instruction, one direct call of its meaning. The state of an instruction has
`PC` just past the first word (10_state R25; log 16). -/

namespace Sys2Proof.Machine

def exec (i : Instr) (s : State) : Host.Outcome State Fault Refusal :=
  match i with
  | .oriToCcr => Sys2Proof.Machine.execOriToCcr s
  | .oriToSr => Sys2Proof.Machine.execOriToSr s
  | .ori sz dst => Sys2Proof.Machine.execOri sz dst s
  | .andiToCcr => Sys2Proof.Machine.execAndiToCcr s
  | .andiToSr => Sys2Proof.Machine.execAndiToSr s
  | .andi sz dst => Sys2Proof.Machine.execAndi sz dst s
  | .eoriToCcr => Sys2Proof.Machine.execEoriToCcr s
  | .eoriToSr => Sys2Proof.Machine.execEoriToSr s
  | .eori sz dst => Sys2Proof.Machine.execEori sz dst s
  | .subi sz dst => Sys2Proof.Machine.execSubi sz dst s
  | .addi sz dst => Sys2Proof.Machine.execAddi sz dst s
  | .cmpi sz dst => Sys2Proof.Machine.execCmpi sz dst s
  | .btstImm dst => Sys2Proof.Machine.execBtstImm dst s
  | .bchgImm dst => Sys2Proof.Machine.execBchgImm dst s
  | .bclrImm dst => Sys2Proof.Machine.execBclrImm dst s
  | .bsetImm dst => Sys2Proof.Machine.execBsetImm dst s
  | .btstReg n dst => Sys2Proof.Machine.execBtstReg n dst s
  | .bchgReg n dst => Sys2Proof.Machine.execBchgReg n dst s
  | .bclrReg n dst => Sys2Proof.Machine.execBclrReg n dst s
  | .bsetReg n dst => Sys2Proof.Machine.execBsetReg n dst s
  | .movep x toMem long y => Sys2Proof.Machine.execMovep x toMem long y s
  | .moveB dst src => Sys2Proof.Machine.execMoveB dst src s
  | .moveW dst src => Sys2Proof.Machine.execMoveW dst src s
  | .moveaW n src => Sys2Proof.Machine.execMoveaW n src s
  | .moveL dst src => Sys2Proof.Machine.execMoveL dst src s
  | .moveaL n src => Sys2Proof.Machine.execMoveaL n src s
  | .negx sz dst => Sys2Proof.Machine.execNegx sz dst s
  | .moveFromSr dst => Sys2Proof.Machine.execMoveFromSr dst s
  | .chk n src => Sys2Proof.Machine.execChk n src s
  | .lea n src => Sys2Proof.Machine.execLea n src s
  | .clr sz dst => Sys2Proof.Machine.execClr sz dst s
  | .neg sz dst => Sys2Proof.Machine.execNeg sz dst s
  | .moveToCcr src => Sys2Proof.Machine.execMoveToCcr src s
  | .notOp sz dst => Sys2Proof.Machine.execNotOp sz dst s
  | .moveToSr src => Sys2Proof.Machine.execMoveToSr src s
  | .nbcd dst => Sys2Proof.Machine.execNbcd dst s
  | .swap n => Sys2Proof.Machine.execSwap n s
  | .pea src => Sys2Proof.Machine.execPea src s
  | .extW n => Sys2Proof.Machine.execExtW n s
  | .extL n => Sys2Proof.Machine.execExtL n s
  | .movemToMem long dst => Sys2Proof.Machine.execMovemToMem long dst s
  | .tst sz dst => Sys2Proof.Machine.execTst sz dst s
  | .tas dst => Sys2Proof.Machine.execTas dst s
  | .movemToRegs long src => Sys2Proof.Machine.execMovemToRegs long src s
  | .trap v => Sys2Proof.Machine.execTrap v s
  | .link n => Sys2Proof.Machine.execLink n s
  | .unlk n => Sys2Proof.Machine.execUnlk n s
  | .moveAnUsp n => Sys2Proof.Machine.execMoveAnUsp n s
  | .moveUspAn n => Sys2Proof.Machine.execMoveUspAn n s
  | .reset => Sys2Proof.Machine.execReset s
  | .nop => Sys2Proof.Machine.execNop s
  | .stop => Sys2Proof.Machine.execStop s
  | .rte => Sys2Proof.Machine.execRte s
  | .rts => Sys2Proof.Machine.execRts s
  | .trapv => Sys2Proof.Machine.execTrapv s
  | .rtr => Sys2Proof.Machine.execRtr s
  | .jsr dst => Sys2Proof.Machine.execJsr dst s
  | .jmp dst => Sys2Proof.Machine.execJmp dst s
  | .addq q sz dst => Sys2Proof.Machine.execAddq q sz dst s
  | .subq q sz dst => Sys2Proof.Machine.execSubq q sz dst s
  | .dbcc c n => Sys2Proof.Machine.execDbcc c n s
  | .scc c dst => Sys2Proof.Machine.execScc c dst s
  | .bra d => Sys2Proof.Machine.execBra d s
  | .bsr d => Sys2Proof.Machine.execBsr d s
  | .bcc c d => Sys2Proof.Machine.execBcc c d s
  | .moveq n d => Sys2Proof.Machine.execMoveq n d s
  | .divu n src => Sys2Proof.Machine.execDivu n src s
  | .divs n src => Sys2Proof.Machine.execDivs n src s
  | .sbcd x m y => Sys2Proof.Machine.execSbcd x m y s
  | .orEaDn n sz src => Sys2Proof.Machine.execOrEaDn n sz src s
  | .orDnEa n sz dst => Sys2Proof.Machine.execOrDnEa n sz dst s
  | .mulu n src => Sys2Proof.Machine.execMulu n src s
  | .muls n src => Sys2Proof.Machine.execMuls n src s
  | .abcd x m y => Sys2Proof.Machine.execAbcd x m y s
  | .exgDD x y => Sys2Proof.Machine.execExgDD x y s
  | .exgAA x y => Sys2Proof.Machine.execExgAA x y s
  | .exgDA x y => Sys2Proof.Machine.execExgDA x y s
  | .andEaDn n sz src => Sys2Proof.Machine.execAndEaDn n sz src s
  | .andDnEa n sz dst => Sys2Proof.Machine.execAndDnEa n sz dst s
  | .subEaDn n sz src => Sys2Proof.Machine.execSubEaDn n sz src s
  | .subDnEa n sz dst => Sys2Proof.Machine.execSubDnEa n sz dst s
  | .subaW n src => Sys2Proof.Machine.execSubaW n src s
  | .subaL n src => Sys2Proof.Machine.execSubaL n src s
  | .subx x sz m y => Sys2Proof.Machine.execSubx x sz m y s
  | .addEaDn n sz src => Sys2Proof.Machine.execAddEaDn n sz src s
  | .addDnEa n sz dst => Sys2Proof.Machine.execAddDnEa n sz dst s
  | .addaW n src => Sys2Proof.Machine.execAddaW n src s
  | .addaL n src => Sys2Proof.Machine.execAddaL n src s
  | .addx x sz m y => Sys2Proof.Machine.execAddx x sz m y s
  | .cmp n sz src => Sys2Proof.Machine.execCmp n sz src s
  | .cmpaW n src => Sys2Proof.Machine.execCmpaW n src s
  | .cmpaL n src => Sys2Proof.Machine.execCmpaL n src s
  | .eor n sz dst => Sys2Proof.Machine.execEor n sz dst s
  | .cmpm x sz y => Sys2Proof.Machine.execCmpm x sz y s
  | .asrReg c sz n => Sys2Proof.Machine.execAsrReg c sz n s
  | .asrMem dst => Sys2Proof.Machine.execAsrMem dst s
  | .aslReg c sz n => Sys2Proof.Machine.execAslReg c sz n s
  | .aslMem dst => Sys2Proof.Machine.execAslMem dst s
  | .lsrReg c sz n => Sys2Proof.Machine.execLsrReg c sz n s
  | .lsrMem dst => Sys2Proof.Machine.execLsrMem dst s
  | .lslReg c sz n => Sys2Proof.Machine.execLslReg c sz n s
  | .lslMem dst => Sys2Proof.Machine.execLslMem dst s
  | .roxrReg c sz n => Sys2Proof.Machine.execRoxrReg c sz n s
  | .roxrMem dst => Sys2Proof.Machine.execRoxrMem dst s
  | .roxlReg c sz n => Sys2Proof.Machine.execRoxlReg c sz n s
  | .roxlMem dst => Sys2Proof.Machine.execRoxlMem dst s
  | .rorReg c sz n => Sys2Proof.Machine.execRorReg c sz n s
  | .rorMem dst => Sys2Proof.Machine.execRorMem dst s
  | .rolReg c sz n => Sys2Proof.Machine.execRolReg c sz n s
  | .rolMem dst => Sys2Proof.Machine.execRolMem dst s

end Sys2Proof.Machine
end

