-- ==== Sys2Proof/Machine/Cycle.lean ====
section
/-! DEFINITION. The CPU step (60 R401), interrupt acceptance (60 R440), the device phases and the base cycle (64 R610), and
the placing of a program's first instruction for `State.withFetchWord` (log 14). -/

namespace Sys2Proof.Machine

/-! ## The CPU -/

/-- The requester's level beats the mask (60 R440). -/
def levelAccepted (level mask : BitVec 3) : Bool := decide (mask.toNat < level.toNat) || level == 7

/-- An interrupt is accepted at this poll point (60 R440). -/
def State.interruptDue (s : State) : Bool := s.mfp.line && levelAccepted s.params.mfpIrqLevel s.sr.i

/-- Accepting the MFP's request: its vector is asked for, then the exception is taken (60 R440). -/
def acceptInterrupt : M Unit := do
  let q ← look (fun s => s.mfp.irqCause)
  change (fun s => { s with mfp := q.1 })
  let pc ← look State.pc
  let level ← look (fun s => s.params.mfpIrqLevel)
  exceptionEntry q.2 pc (.interrupt level)

/-- Stopped by `STOP` (10_state R34), or parked at the host's return address (60 R401 line 3). -/
def State.waiting (s : State) : Bool := s.stopped || s.pc == s.params.hostReturnAddress

/-- Lines 4 to 10 of the step: the instruction at `PC` (60 R401). -/
def instructionStep (s : State) : Host.Outcome State Fault Refusal :=
  match decode (fetchWord s).1 with
  | .error _ => .next (latchFault s (fetchWord s).2 .decodeMiss)
  | .ok i => if (fetchWord s).2.sr.t then .refused .traceUnspecified else exec i (fetchWord s).2

/-- The CPU step from a state whose `trap` result is not set yet. -/
def cpuStepFrom (s : State) : Host.Outcome State Fault Refusal :=
  if s.fault.isSome then .next s
  else if s.interruptDue then finish acceptInterrupt s
  else if s.waiting then .next s
  else instructionStep s

/-- `CPU.Step()` (60 R401); its result `trap` stays in the state (00_scope R17; log 21). -/
def cpuStep (s : State) : Host.Outcome State Fault Refusal := cpuStepFrom { s with trap := false }

/-! ## The devices -/

def psgPhase (s : State) : State :=
  let t := s.psgClock.advance
  { s with psgClock := t.1, psg := if t.2 then (s.psg.clockCycle s.params.levelTable).1 else s.psg }

def mfpPhase (s : State) : State :=
  let t := s.mfpClock.advance
  { s with mfpClock := t.1, mfp := if t.2 then s.mfp.clockCycle.1 else s.mfp }

/-- One DAC clock period as the system sees it: the end of a buffer fires the MFP's hook once (63 R582). -/
def dacTick (s : State) : State :=
  let r := s.dac.clockCycle
  { s with dac := r.1, mfp := if r.2.2 then s.mfp.fireDmaEvent else s.mfp }

def dacPhase (s : State) : State :=
  let t := s.dacClock.advance
  if t.2 then dacTick { s with dacClock := t.1 } else { s with dacClock := t.1 }

/-- The three device phases, in their order (64 R610). -/
def devicePhases (s : State) : State := dacPhase (mfpPhase (psgPhase s))

/-! ## The base cycle -/

/-- `advanceClock()` (64 R610). -/
def baseCycle (s : State) : Host.Outcome State Fault Refusal :=
  match cpuStep s with
  | .next t => .next (devicePhases t)
  | .fault r => .fault r
  | .refused r => .refused r

/-- The boolean of `advanceClock()`: no host-level fault is latched (00_scope R17, 64 R610). -/
def State.validInsn (s : State) : Bool := s.fault.isNone

/-! ## Placing an instruction where the next step fetches it (log 14) -/

/-- The program counter at which 14 bytes can be fetched from RAM: the one the state has, wherever that works. -/
def fetchPlace (s : State) : Word :=
  if busAddr s.pc + 14 ≤ Config.ramSize ∧ s.pc ≠ s.params.hostReturnAddress then s.pc
  else if s.params.hostReturnAddress = BitVec.ofNat 32 Config.imageBase then 0x2000
  else BitVec.ofNat 32 Config.imageBase

/-- The status word under which the next step fetches: no trace, and no interrupt accepted first. -/
def fetchStatus (s : State) : Status :=
  { s.sr with t := false, i := if s.interruptDue then 7 else s.sr.i }

/-- `s` with bytes stored where the next step fetches. -/
def placeInstruction (s : State) (bytes : List Byte) : State :=
  { s with
    ram := s.ram.storeList (busAddr (fetchPlace s)) bytes
    pc := fetchPlace s
    sr := fetchStatus s
    stopped := false
    fault := none }

end Sys2Proof.Machine
end

