-- ==== Sys2Proof/Machine/Step.lean ====
section
/-! DEFINITION. The step: one base cycle, `advanceClock()` (64 R610; log 15). -/

namespace Sys2Proof.Machine

/-- One base cycle: one CPU step, then the devices whose clocks tick (64 R610, R611). -/
def step (s : State) : Host.Outcome State Fault Refusal := baseCycle s

/-- `s` with a table row's instruction stored where `step` fetches its next instruction (log 14). -/
def State.withFetchWord (s : State) (nbits w : Nat) : State := placeInstruction s (tableBytes nbits w)

end Sys2Proof.Machine
end

