-- ==== Sys2Proof/Machine/HostPort.lean ====
section
/-! DEFINITION. What the host can do between base cycles (64 R620..R631): functions beside the step (log 20). -/

namespace Sys2Proof.Machine

/-! ## Construction -/

/-- The reset values a machine can have: what the rules say of each device and clock at all times holds from the start
(10_state R40, R43, R44, R47, R49, 61 R471, 64 R602). -/
def ResetValues.legal (p : Params) (r : ResetValues) : Bool :=
  r.psg.masked && r.mfp.ok && r.dac.ok
    && (ClockManager.start Config.sysClockHz Config.psgClockHz r.psgClock).ok
    && (ClockManager.start Config.sysClockHz Config.mfpClockHz r.mfpClock).ok
    && (ClockManager.start Config.sysClockHz p.dacClockHz r.dacClock).ok

/-- Construction is reset (70 R650) at configured values (10_state R51): the two reset vectors are read through the bus last
(10_state R52). An MFP level outside 1..6 is refused (60 R440), and so are parameters and reset values that are not `legal`
(DESIGN CHOICE, log 30); what `Params.legal` does not ask of a parameter, construction accepts (log 31). -/
def construct (p : Params) (r : ResetValues) : Host.Outcome State Fault Refusal :=
  if p.mfpIrqLevel = 0 ∨ p.mfpIrqLevel = 7 then .refused .mfpIrqLevel
  else if p.legal && r.legal p then
    let s := State.cold p r
    let isp := memRead s s.vbr .l
    let pc := memRead isp.2 (s.vbr + 4) .l
    .next { pc.2 with isp := isp.1, pc := pc.1 }
  else .refused .parameterOutOfRange

/-- The host may set `VBR` before a run (10_state R32). -/
def setVbr (s : State) (v : Word) : State := { s with vbr := v }

/-! ## Program image -/

/-- `copyToRAM(data)` (64 R621): the state, and the boolean. -/
def copyToRam (s : State) (data : List Byte) : State × Bool :=
  if Config.ramSize < Config.imageBase + data.length then (s, false)
  else ({ s with ram := s.ram.storeList Config.imageBase data }, true)

/-! ## Calls -/

/-- How a call ends (64 R626): a boolean, a refusal, or still running when the fuel is spent (64 R627; log 26). -/
inductive CallResult where
  | returned (ok : Bool) (s : State)
  | refused (r : Refusal)
  | running (s : State)
  deriving DecidableEq, Repr

/-- The host latches a hang (64 R627): the ordinary sticky fault (60 R420, log 8). -/
def declareHang (s : State) : State := latchFault s s .hostDetectedHang

/-- The limit is reached after `n` base cycles (64 R626). -/
def limitReached (limit : Option Nat) (n : Nat) : Bool :=
  match limit with
  | none => false
  | some k => decide (k ≤ n)

/-- The loop of `Call` (64 R626), `n` base cycles done. -/
def callLoop : Nat → Nat → State → CallResult
  | 0, _, s => .running s
  | fuel + 1, n, s =>
    match step s with
    | .refused r => .refused r
    | .fault _ => .returned false s
    | .next t =>
      if !t.validInsn then .returned false t
      else if t.pc = t.params.hostReturnAddress then .returned true t
      else if limitReached t.params.hostCallLimit (n + 1) then .returned false (declareHang t)
      else callLoop fuel (n + 1) t

/-- The protocol of `Call` allows it (64 R626). -/
def callAllowed (s : State) : Bool := s.fault.isNone && (s.pc == s.params.hostReturnAddress || !s.callMade)

/-- The entry of `Call`: the stack pointer, the return address, the target (64 R626). -/
def callEntry (target : Word) : M Unit := do
  change (fun s => s.setA 7 s.params.hostStackTop)
  let ret ← look (fun s => s.params.hostReturnAddress)
  push .l ret
  change (fun s => { s with pc := target, stopped := false, callMade := true })

/-- `Call(target)` (64 R626), run for at most `fuel` base cycles. -/
def call (fuel : Nat) (target : Word) (s : State) : CallResult :=
  if callAllowed s then
    match finish (callEntry target) s with
    | .next t => callLoop fuel 0 t
    | .fault _ => .returned false s
    | .refused r => .refused r
  else .refused .hostProtocol

/-- `init(subtune)` (64 R622). -/
def init (fuel : Nat) (subtune : Half) (entry : Word) (s : State) : CallResult :=
  if callAllowed s then call fuel entry (s.setD 0 (subtune.setWidth 32)) else .refused .hostProtocol

/-- `exit()` (64 R623). -/
def exit (fuel : Nat) (entry : Word) (s : State) : CallResult := call fuel entry s

/-- `play()` (64 R623). -/
def play (fuel : Nat) (entry : Word) (s : State) : CallResult := call fuel entry s

/-! ## Samples -/

/-- `sampleReady()` (62 R534, 64 R624). -/
def sampleReady (s : State) : Bool := s.psg.ready

/-- `signed_8` of a byte read from the bus. -/
def signed8 (v : Word) : Int := (v.setWidth 8).toInt

/-- `SteDAC.sample()` (63 R585): bus reads at the current address, and the state after them. -/
def dacSample (s : State) : Int × State :=
  if !s.dac.dmaActive then (0, s)
  else
    let at_ := s.dac.dmaCurrent.setWidth 32
    if s.dac.dmaMono then
      let r := memRead s at_ .b
      (signed8 r.1 * 32, r.2)
    else
      let l := memRead s at_ .b
      let r := memRead l.2 (at_ + 1) .b
      ((signed8 l.1 + signed8 r.1) * 16, r.2)

/-- `readSample()` (64 R624): the mix of the latest values; the sample is no longer ready. -/
def readSample (s : State) : Half × State :=
  let r := dacSample s
  (Config.mix r.2.psg.sample r.1 r.2.dac.mainVolume, { r.2 with psg := { r.2.psg with ready := false } })

/-- `outputLevel()` (63 R576). -/
def outputLevel (s : State) : Byte := s.dac.mainVolume

/-! ## MFP -/

/-- `configureTimer(timerIndex, reloadValue, controlBits)` (61 R493; which bits of `controlBits` timers C and D take: log 32). -/
def configureTimer (s : State) (t : TimerIndex) (reload control : Byte) : Host.Outcome State Fault Refusal :=
  match s.mfp.configureTimer t reload control with
  | .ok m => .next { s with mfp := m }
  | .error r => .refused r

/-- A direct call of `irqCause()` by the host (60 R445). -/
def hostIrqCause (s : State) : State × Byte := ({ s with mfp := s.mfp.irqCause.1 }, s.mfp.irqCause.2)

/-! ## Exceptions -/

/-- `executeFromException(vector, stackTop, level)` (64 R628): the entry only. It is no CPU step, so the last step's `trap`
result stays. -/
def executeFromException (vector : Byte) (stackTop : Word) (level : BitVec 3) (s : State) :
    Host.Outcome State Fault Refusal :=
  if s.fault.isNone then
    finish (do
      change (fun s => { s with isp := stackTop })
      let pc ← look State.pc
      exceptionEntry vector pc (.interrupt level)
      change (fun t => { t with trap := s.trap })) s
  else .refused .hostProtocol

/-! ## Diagnostics -/

/-- What `displayCPUState()` reads (64 R629); the format it prints in is not specified. -/
structure CpuDump where
  d : List Word
  a : List Word
  usp : Word
  ssp : Word
  isp : Word
  pc : Word
  sr : Half
  deriving DecidableEq, Repr

/-- `displayCPUState()` (64 R629): it changes no state. -/
def displayCpuState (s : State) : CpuDump where
  d := s.d.toList
  a := s.a.toList
  usp := s.usp
  ssp := s.ssp
  isp := s.isp
  pc := s.pc
  sr := s.sr.toWord

end Sys2Proof.Machine
end

