-- ==== Sys2Proof/Safety.lean ====
section
/-! DEFINITION. What claims call a safe state and a safe run: the invariants the rules give the machine, and runs from any
state. -/

namespace Sys2Proof.Machine

/-- The invariant of the machine: legal parameters, RAM in its canonical form, implemented bits only in the PSG
(10_state R40), the device invariants, and the three clock managers. -/
def State.Inv (s : State) : Prop :=
  s.params.legal = true ∧ s.ram.wf = true ∧ s.psg.masked = true ∧ s.mfp.ok = true ∧ s.dac.ok = true
    ∧ s.psgClock.ok = true ∧ s.mfpClock.ok = true ∧ s.dacClock.ok = true

/-- `k` base cycles from `s` end in `t`. -/
def Runs : Nat → State → State → Prop
  | 0, s, t => s = t
  | k + 1, s, t => ∃ u, step s = .next u ∧ Runs k u t

/-- A run is safe from `s` when no reachable base cycle is refused and no host-level fault is latched. -/
def SafeFrom (s : State) : Prop :=
  ∀ k t, Runs k s t → t.fault = none ∧ ∃ u, step t = .next u

end Sys2Proof.Machine
end

