-- ==== Sys2Proof/Certificates/Slice0/Obligations.lean ====
section
/-! DEFINITION. The statements for the provers, and the words they are written in. A result is given in the spec's own
arithmetic (naturals and integers), an operand through the model's `resolve`, `readEa` and `writeLoc`, which
`AddressingModes`, `IndexedAddress`, `OperandsResolve`, `RegisterWrites` and `RamBytes` describe. -/

namespace Sys2Proof.Machine.Claims

/-! ## Arithmetic of the rules (00_scope R10, R15) -/

/-- `2^bits(sz)`. -/
def span (sz : Size) : Nat := 2 ^ bitCount sz

/-- `signed_sz(v)`. -/
def signedOf (sz : Size) (v : Word) : Int := if 2 * v.toNat < span sz then v.toNat else (v.toNat : Int) - span sz

/-- An integer that a signed value of size `sz` can be. -/
def inRange (sz : Size) (t : Int) : Bool := decide (-(span sz : Int) ≤ 2 * t ∧ 2 * t < span sz)

/-- An integer modulo `2^bits(sz)`. -/
def ofValue (sz : Size) (t : Int) : Word := BitVec.ofNat 32 (t % span sz).toNat

/-- A value in the upper half of its size. -/
def negative (sz : Size) (r : Word) : Bool := decide (span sz ≤ 2 * r.toNat)

/-- The result and the flags of `s + d + x`. -/
def sumValue (sz : Size) (s d : Word) (x : Bool) : Word := ofValue sz (s.toNat + d.toNat + bitNat x)

def sumStatus (sz : Size) (s d : Word) (x : Bool) (f : Status) : Status where
  t := f.t
  s := f.s
  m := f.m
  i := f.i
  x := decide (span sz ≤ s.toNat + d.toNat + bitNat x)
  n := negative sz (sumValue sz s d x)
  z := decide (sumValue sz s d x = 0)
  v := !inRange sz (signedOf sz s + signedOf sz d + bitNat x)
  c := decide (span sz ≤ s.toNat + d.toNat + bitNat x)

/-- The result and the flags of `d - s - x`. -/
def differenceValue (sz : Size) (s d : Word) (x : Bool) : Word := ofValue sz ((d.toNat : Int) - s.toNat - bitNat x)

def differenceStatus (sz : Size) (s d : Word) (x : Bool) (f : Status) : Status where
  t := f.t
  s := f.s
  m := f.m
  i := f.i
  x := decide (d.toNat < s.toNat + bitNat x)
  n := negative sz (differenceValue sz s d x)
  z := decide (differenceValue sz s d x = 0)
  v := !inRange sz (signedOf sz d - signedOf sz s - bitNat x)
  c := decide (d.toNat < s.toNat + bitNat x)

/-- The flags of a comparison: those of the difference, `X` kept. -/
def compareStatus (sz : Size) (s d : Word) (f : Status) : Status := { differenceStatus sz s d false f with x := f.x }

/-- `N Z` of a result, `V` and `C` clear, `X` kept. -/
def logicStatus (sz : Size) (r : Word) (f : Status) : Status :=
  { f with n := negative sz r, z := decide (r = 0), v := false, c := false }

/-- A zero flag that only falls. -/
def sticky (f : Status) (g : Status) : Status := { g with z := f.z && g.z }

/-! ## Shapes of instructions -/

/-- `<ea>,Dn`. -/
def EaToRegister (i : Reg → Size → Ea → Instr) (res : Size → Word → Word → Word)
    (st : Size → Word → Word → Status → Status) : Prop :=
  ∀ (s s1 : State) (n : Reg) (sz : Size) (src : Ea) (v : Word), (i n sz src).wf = true → readEa src sz s = .ok v s1 →
    exec (i n sz src) s = .next ((s1.writeD n sz (res sz v (trunc sz (s.dreg n)))).setSr
      (st sz v (trunc sz (s.dreg n)) s.sr))

/-- A locator read once and written once, the rest of the instruction being the status word. -/
def Changes (i : Instr) (sz : Size) (s s1 : State) (loc : Loc) (res : Word → Word) (st : Word → Status → Status) : Prop :=
  ∀ s2 : State, writeLoc loc sz (res (readLocFrom s1 loc sz).1) (readLocFrom s1 loc sz).2 = .ok () s2 →
    exec i s = .next (s2.setSr (st (readLocFrom s1 loc sz).1 s.sr))

/-- `Dn,<ea>`. -/
def RegisterToEa (i : Reg → Size → Ea → Instr) (res : Size → Word → Word → Word)
    (st : Size → Word → Word → Status → Status) : Prop :=
  ∀ (s s1 : State) (n : Reg) (sz : Size) (dst : Ea) (loc : Loc), (i n sz dst).wf = true → resolve dst sz s = .ok loc s1 →
    Changes (i n sz dst) sz s s1 loc (res sz (trunc sz (s.dreg n))) (st sz (trunc sz (s.dreg n)))

/-- `#imm,<ea>`. -/
def ImmediateToEa (i : Size → Ea → Instr) (res : Size → Word → Word → Word)
    (st : Size → Word → Word → Status → Status) : Prop :=
  ∀ (s s0 s1 : State) (sz : Size) (dst : Ea) (v : Word) (loc : Loc), (i sz dst).wf = true → fetchImm sz s = .ok v s0 →
    resolve dst sz s0 = .ok loc s1 → Changes (i sz dst) sz s s1 loc (res sz v) (st sz v)

/-- `<ea>` in place. -/
def InPlace (i : Size → Ea → Instr) (res : Size → Bool → Word → Word) (st : Size → Word → Status → Status) : Prop :=
  ∀ (s s1 : State) (sz : Size) (dst : Ea) (loc : Loc), (i sz dst).wf = true → resolve dst sz s = .ok loc s1 →
    Changes (i sz dst) sz s s1 loc (res sz s.sr.x) (st sz)

/-- The word after the first word, and the state after it is fetched. -/
def word1 (s : State) : Half := (fetchWord s).1
def after1 (s : State) : State := (fetchWord s).2

/-- Memory writes one after the other, through the bus. -/
def storeAll (sz : Size) : List (Word × Word) → State → Except Refusal State
  | [], s => .ok s
  | (a, v) :: rest, s =>
    match memWrite s a sz v with
    | .ok t => storeAll sz rest t
    | .error r => .error r

/-- Memory reads one after the other, through the bus. -/
def readAll (sz : Size) : List Word → State → List Word × State
  | [], s => ([], s)
  | a :: rest, s => ((memRead s a sz).1 :: (readAll sz rest (memRead s a sz).2).1, (readAll sz rest (memRead s a sz).2).2)

/-! ## Exception entry -/

/-- `FRAME_WORD(v)` (60 R410). -/
def formatWord (vector : Byte) : Word := 0x1004 ||| BitVec.ofNat 32 (4 * vector.toNat % 0x1000)

/-- The status word on entry (60 R410). -/
def onEntry (f : Status) : ExceptionKind → Status
  | .other => { f with t := false, s := true }
  | .interrupt level => { f with t := false, s := true, m := false, i := level }

/-- The stack pointer that the new status word selects. -/
def entrySp (k : ExceptionKind) (s : State) : Word := (s.setSr (onEntry s.sr k)).sp

/-- `VBR + 4*v`. -/
def vectorSlot (s : State) (vector : Byte) : Word := s.vbr + BitVec.ofNat 32 (4 * vector.toNat)

/-- `ExceptionEntry(vector, ret, k)` takes `s` to `t`: three stores below the new stack pointer, one load (60 R410). -/
def Entered (vector : Byte) (ret : Word) (k : ExceptionKind) (s t : State) : Prop :=
  ∃ s1 s2 s3 : State,
    memWrite ((s.setSr (onEntry s.sr k)).setSp (entrySp k s - 2)) (entrySp k s - 2) .w (formatWord vector) = .ok s1 ∧
    memWrite (s1.setSp (entrySp k s - 6)) (entrySp k s - 6) .l ret = .ok s2 ∧
    memWrite (s2.setSp (entrySp k s - 8)) (entrySp k s - 8) .w (s.sr.toWord.setWidth 32) = .ok s3 ∧
    t = { (memRead s3 (vectorSlot s vector) .l).2 with
      pc := (memRead s3 (vectorSlot s vector) .l).1, stopped := false, trap := true }

/-- The stack has 8 bytes of RAM below its pointer, and the vector lies in RAM. -/
def canEnter (vector : Byte) (k : ExceptionKind) (s : State) : Prop :=
  8 ≤ busAddr (entrySp k s) ∧ busAddr (entrySp k s) ≤ Config.ramSize ∧ busAddr (vectorSlot s vector) < Config.ramSize

/-- The MFP asks for an interrupt that the CPU accepts now (60 R440, 61 R491). -/
def requested (s : State) : Prop :=
  s.mfp.ipr &&& s.mfp.imr ≠ 0 ∧ (s.sr.i.toNat < s.params.mfpIrqLevel.toNat ∨ s.params.mfpIrqLevel = 7)

/-! ## Frames -/

/-- The effective address an instruction writes, and its size. -/
def written : Instr → Option (Size × Ea)
  | .ori sz e => some (sz, e)
  | .andi sz e => some (sz, e)
  | .eori sz e => some (sz, e)
  | .subi sz e => some (sz, e)
  | .addi sz e => some (sz, e)
  | .bchgImm e => some (bitSize e, e)
  | .bclrImm e => some (bitSize e, e)
  | .bsetImm e => some (bitSize e, e)
  | .bchgReg _ e => some (bitSize e, e)
  | .bclrReg _ e => some (bitSize e, e)
  | .bsetReg _ e => some (bitSize e, e)
  | .moveB e _ => some (.b, e)
  | .moveW e _ => some (.w, e)
  | .moveL e _ => some (.l, e)
  | .negx sz e => some (sz, e)
  | .moveFromSr e => some (.w, e)
  | .clr sz e => some (sz, e)
  | .neg sz e => some (sz, e)
  | .notOp sz e => some (sz, e)
  | .nbcd e => some (.b, e)
  | .tas e => some (.b, e)
  | .addq _ sz e => some (sz, e)
  | .subq _ sz e => some (sz, e)
  | .scc _ e => some (.b, e)
  | .sbcd x m _ => some (.b, match m with | .regs => .dn x | .predec => .predec x)
  | .abcd x m _ => some (.b, match m with | .regs => .dn x | .predec => .predec x)
  | .subx x sz m _ => some (sz, match m with | .regs => .dn x | .predec => .predec x)
  | .addx x sz m _ => some (sz, match m with | .regs => .dn x | .predec => .predec x)
  | .orDnEa _ sz e => some (sz, e)
  | .andDnEa _ sz e => some (sz, e)
  | .subDnEa _ sz e => some (sz, e)
  | .addDnEa _ sz e => some (sz, e)
  | .eor _ sz e => some (sz, e)
  | .asrMem e => some (.w, e)
  | .aslMem e => some (.w, e)
  | .lsrMem e => some (.w, e)
  | .lslMem e => some (.w, e)
  | .roxrMem e => some (.w, e)
  | .roxlMem e => some (.w, e)
  | .rorMem e => some (.w, e)
  | .rolMem e => some (.w, e)
  | _ => none

/-- The effective addresses an instruction only reads or takes the address of. -/
def consulted : Instr → List Ea
  | .cmpi _ e => [e]
  | .btstImm e => [e]
  | .btstReg _ e => [e]
  | .moveB _ e => [e]
  | .moveW _ e => [e]
  | .moveaW _ e => [e]
  | .moveL _ e => [e]
  | .moveaL _ e => [e]
  | .chk _ e => [e]
  | .lea _ e => [e]
  | .moveToCcr e => [e]
  | .moveToSr e => [e]
  | .pea e => [e]
  | .movemToMem _ e => [e]
  | .tst _ e => [e]
  | .movemToRegs _ e => [e]
  | .jsr e => [e]
  | .jmp e => [e]
  | .divu _ e => [e]
  | .divs _ e => [e]
  | .sbcd _ m y => match m with | .regs => [] | .predec => [.predec y]
  | .orEaDn _ _ e => [e]
  | .mulu _ e => [e]
  | .muls _ e => [e]
  | .abcd _ m y => match m with | .regs => [] | .predec => [.predec y]
  | .andEaDn _ _ e => [e]
  | .subEaDn _ _ e => [e]
  | .subaW _ e => [e]
  | .subaL _ e => [e]
  | .subx _ _ m y => match m with | .regs => [] | .predec => [.predec y]
  | .addEaDn _ _ e => [e]
  | .addaW _ e => [e]
  | .addaL _ e => [e]
  | .addx _ _ m y => match m with | .regs => [] | .predec => [.predec y]
  | .cmp _ _ e => [e]
  | .cmpaW _ e => [e]
  | .cmpaL _ e => [e]
  | .cmpm x _ y => [.postinc x, .postinc y]
  | _ => []

/-- The address register an addressing mode steps. -/
def steps : Ea → List Reg
  | .postinc n => [n]
  | .predec n => [n]
  | _ => []

/-- The registers of a `MOVEM` load: bit `i` of the mask, `D0..D7` then `A0..A7` (40 R173). -/
def loadedD (mask : Half) : List Reg := (List.finRange 8).filter (fun n => mask.getLsbD n.val)
def loadedA (mask : Half) : List Reg := (List.finRange 8).filter (fun n => mask.getLsbD (8 + n.val))

/-- The data registers an instruction may write. -/
def writesD (i : Instr) (s : State) : List Reg :=
  (match written i with
    | some (_, .dn n) => [n]
    | _ => []) ++
  (match i with
    | .movep x toMem _ _ => if toMem then [] else [x]
    | .swap n => [n]
    | .extW n => [n]
    | .extL n => [n]
    | .movemToRegs _ _ => loadedD (word1 s)
    | .dbcc _ n => [n]
    | .moveq n _ => [n]
    | .divu n _ => [n]
    | .divs n _ => [n]
    | .orEaDn n _ _ => [n]
    | .mulu n _ => [n]
    | .muls n _ => [n]
    | .exgDD x y => [x, y]
    | .exgDA x _ => [x]
    | .andEaDn n _ _ => [n]
    | .subEaDn n _ _ => [n]
    | .addEaDn n _ _ => [n]
    | .asrReg _ _ n => [n]
    | .aslReg _ _ n => [n]
    | .lsrReg _ _ n => [n]
    | .lslReg _ _ n => [n]
    | .roxrReg _ _ n => [n]
    | .roxlReg _ _ n => [n]
    | .rorReg _ _ n => [n]
    | .rolReg _ _ n => [n]
    | _ => [])

/-- The address registers an instruction may write: its destinations, those its addressing modes step, and the stack
pointer (number 7) where it pushes or pops. -/
def writesA (i : Instr) (s : State) : List Reg :=
  (match written i with
    | some (_, .an n) => [n]
    | some (_, e) => steps e
    | none => []) ++
  (consulted i).flatMap steps ++
  (match i with
    | .moveaW n _ => [n]
    | .moveaL n _ => [n]
    | .lea n _ => [n]
    | .pea _ => [7]
    | .movemToRegs _ _ => loadedA (word1 s)
    | .link n => [n, 7]
    | .unlk n => [n, 7]
    | .moveUspAn n => [n]
    | .rte => [7]
    | .rts => [7]
    | .rtr => [7]
    | .jsr _ => [7]
    | .bsr _ => [7]
    | .exgAA x y => [x, y]
    | .exgDA _ y => [y]
    | .subaW n _ => [n]
    | .subaL n _ => [n]
    | .addaW n _ => [n]
    | .addaL n _ => [n]
    | _ => [])

/-- Which part of the status word an instruction may change. -/
inductive StatusPart where
  /-- Nothing. -/
  | nothing
  /-- `Z`. -/
  | zero
  /-- `N Z V C`. -/
  | nzvc
  /-- `X N Z V C`. -/
  | flags
  /-- All of it. -/
  | whole
  deriving DecidableEq, Repr

def statusPart : Instr → StatusPart
  | .oriToCcr => .flags
  | .oriToSr => .whole
  | .ori _ _ => .nzvc
  | .andiToCcr => .flags
  | .andiToSr => .whole
  | .andi _ _ => .nzvc
  | .eoriToCcr => .flags
  | .eoriToSr => .whole
  | .eori _ _ => .nzvc
  | .subi _ _ => .flags
  | .addi _ _ => .flags
  | .cmpi _ _ => .nzvc
  | .btstImm _ => .zero
  | .bchgImm _ => .zero
  | .bclrImm _ => .zero
  | .bsetImm _ => .zero
  | .btstReg _ _ => .zero
  | .bchgReg _ _ => .zero
  | .bclrReg _ _ => .zero
  | .bsetReg _ _ => .zero
  | .moveB _ _ => .nzvc
  | .moveW _ _ => .nzvc
  | .moveL _ _ => .nzvc
  | .negx _ _ => .flags
  | .chk _ _ => .nzvc
  | .clr _ _ => .nzvc
  | .neg _ _ => .flags
  | .moveToCcr _ => .flags
  | .notOp _ _ => .nzvc
  | .moveToSr _ => .whole
  | .nbcd _ => .flags
  | .swap _ => .nzvc
  | .extW _ => .nzvc
  | .extL _ => .nzvc
  | .tst _ _ => .nzvc
  | .tas _ => .nzvc
  | .stop => .whole
  | .rte => .whole
  | .rtr => .flags
  | .addq _ _ e => if e.isAn then .nothing else .flags
  | .subq _ _ e => if e.isAn then .nothing else .flags
  | .moveq _ _ => .nzvc
  | .divu _ _ => .nzvc
  | .divs _ _ => .nzvc
  | .sbcd _ _ _ => .flags
  | .orEaDn _ _ _ => .nzvc
  | .orDnEa _ _ _ => .nzvc
  | .mulu _ _ => .nzvc
  | .muls _ _ => .nzvc
  | .abcd _ _ _ => .flags
  | .andEaDn _ _ _ => .nzvc
  | .andDnEa _ _ _ => .nzvc
  | .subEaDn _ _ _ => .flags
  | .subDnEa _ _ _ => .flags
  | .subx _ _ _ _ => .flags
  | .addEaDn _ _ _ => .flags
  | .addDnEa _ _ _ => .flags
  | .addx _ _ _ _ => .flags
  | .cmp _ _ _ => .nzvc
  | .cmpaW _ _ => .nzvc
  | .cmpaL _ _ => .nzvc
  | .eor _ _ _ => .nzvc
  | .cmpm _ _ _ => .nzvc
  | .asrReg _ _ _ => .flags
  | .asrMem _ => .flags
  | .aslReg _ _ _ => .flags
  | .aslMem _ => .flags
  | .lsrReg _ _ _ => .flags
  | .lsrMem _ => .flags
  | .lslReg _ _ _ => .flags
  | .lslMem _ => .flags
  | .roxrReg _ _ _ => .flags
  | .roxrMem _ => .flags
  | .roxlReg _ _ _ => .flags
  | .roxlMem _ => .flags
  | .rorReg _ _ _ => .nzvc
  | .rorMem _ => .nzvc
  | .rolReg _ _ _ => .nzvc
  | .rolMem _ => .nzvc
  | _ => .nothing

/-- Everything of a status word but the part is the same. -/
def sameBut (p : StatusPart) (f g : Status) : Prop :=
  match p with
  | .nothing => g = f
  | .zero => g = { f with z := g.z }
  | .nzvc => g = { f with n := g.n, z := g.z, v := g.v, c := g.c }
  | .flags => g = { f with x := g.x, n := g.n, z := g.z, v := g.v, c := g.c }
  | .whole => True

/-- What an instruction does before it resolves the operand it writes. -/
def beforeWritten : Instr → M Unit
  | .ori sz _ => do let _ ← fetchImm sz
  | .andi sz _ => do let _ ← fetchImm sz
  | .eori sz _ => do let _ ← fetchImm sz
  | .subi sz _ => do let _ ← fetchImm sz
  | .addi sz _ => do let _ ← fetchImm sz
  | .bchgImm _ => do let _ ← fetch16
  | .bclrImm _ => do let _ ← fetch16
  | .bsetImm _ => do let _ ← fetch16
  | .moveB _ src => do let _ ← readEa src .b
  | .moveW _ src => do let _ ← readEa src .w
  | .moveL _ src => do let _ ← readEa src .l
  | .sbcd _ m y => match m with | .regs => pure () | .predec => do let _ ← readEa (.predec y) .b
  | .abcd _ m y => match m with | .regs => pure () | .predec => do let _ ← readEa (.predec y) .b
  | .subx _ sz m y => match m with | .regs => pure () | .predec => do let _ ← readEa (.predec y) sz
  | .addx _ sz m y => match m with | .regs => pure () | .predec => do let _ ← readEa (.predec y) sz
  | _ => pure ()

/-- `k` addresses from `a` up, `w` apart. -/
def spread (a : Word) (w : Nat) (k : Nat) : List Word := (List.range k).map (fun j => a + BitVec.ofNat 32 (w * j))

/-- How many registers a `MOVEM` mask names. -/
def named (mask : Half) : Nat := ((List.range 16).filter (fun i => mask.getLsbD i)).length

/-- The addresses an instruction stores to and how many bytes at each, its exceptions apart. -/
def stores (i : Instr) (s : State) : List (Word × Nat) :=
  match i with
  | .pea _ => [(s.sp - 4, 4)]
  | .link _ => [(s.sp - 4, 4)]
  | .bsr _ => [(s.sp - 4, 4)]
  | .jsr _ => [(s.sp - 4, 4)]
  | .movep _ toMem long y =>
    if toMem then (spread (s.areg y + (word1 s).signExtend 32) 2 (if long then 4 else 2)).map (fun a => (a, 1)) else []
  | .movemToMem long e =>
    let w := byteCount (movemSize long)
    match e with
    | .predec r => (spread (s.areg r - BitVec.ofNat 32 (w * named (word1 s))) w (named (word1 s))).map (fun a => (a, w))
    | e =>
      match resolve e (movemSize long) (after1 s) with
      | .ok (.mem a) _ => (spread a w (named (word1 s))).map (fun a => (a, w))
      | _ => []
  | i =>
    match written i with
    | none => []
    | some (sz, e) =>
      match (beforeWritten i >>= fun _ => resolve e sz) s with
      | .ok (.mem a) _ => [(a, byteCount sz)]
      | _ => []

/-- The byte at `x` is none of the bytes stored. -/
def outside (x : Word) (l : List (Word × Nat)) : Prop :=
  ∀ p ∈ l, busAddr x < busAddr p.1 ∨ busAddr p.1 + p.2 ≤ busAddr x

/-- `x` is one of the two bytes whose reading consumes a microwire cycle (20_memory R95). -/
def isMaskByte (x : Word) : Prop := busAddr x = 0xFF8924 ∨ busAddr x = 0xFF8925

/-! ## Operands and results of the families -/

/-- The words after the first word that a branch fetches: its displacement, and the state after (30_encoding R146). -/
def branchWords (d : Byte) (s : State) : Word × State :=
  if d = 0x00 then (BitVec.ofInt 32 (word1 s).toInt, after1 s)
  else if d = 0xFF then
    (BitVec.ofNat 32 ((word1 s).toNat * 0x10000 + (word1 (after1 s)).toNat), after1 (after1 s))
  else (BitVec.ofInt 32 d.toInt, s)

/-- What a shift or rotate by `count` gives: the value, `X`, `C` and `V`. -/
structure Shifted where
  value : Word
  x : Bool
  c : Bool
  v : Bool
  deriving DecidableEq, Repr

/-- Rotating the low `n` bits of `w` left by `k`, `k < n`. -/
def rotated (n w k : Nat) : Nat := w * 2 ^ k % 2 ^ n + w / 2 ^ (n - k)

/-- The shifts and rotates as arithmetic on the operand `v` (43 R260..R267 after `count` single-bit steps). -/
def shiftValue (k : ShiftKind) (sz : Size) (count : Nat) (v : Word) (x : Bool) : Shifted :=
  let b := bitCount sz
  let u := v.toNat
  match k with
  | .lsl =>
    let c := decide (0 < count ∧ count ≤ b) && u.testBit (b - count)
    { value := ofValue sz (u * 2 ^ count), x := if count = 0 then x else c, c := c, v := false }
  | .asl =>
    let c := decide (0 < count ∧ count ≤ b) && u.testBit (b - count)
    { value := ofValue sz (u * 2 ^ count), x := if count = 0 then x else c, c := c,
      v := !inRange sz (signedOf sz v * 2 ^ count) }
  | .lsr =>
    let c := decide (0 < count) && u.testBit (count - 1)
    { value := BitVec.ofNat 32 (u / 2 ^ count), x := if count = 0 then x else c, c := c, v := false }
  | .asr =>
    let c := decide (0 < count) && u.testBit (min (count - 1) (b - 1))
    { value := ofValue sz (signedOf sz v / 2 ^ count), x := if count = 0 then x else c, c := c, v := false }
  | .rol =>
    let r := rotated b u (count % b)
    { value := BitVec.ofNat 32 r, x := x, c := decide (0 < count) && r.testBit 0, v := false }
  | .ror =>
    let r := rotated b u ((b - count % b) % b)
    { value := BitVec.ofNat 32 r, x := x, c := decide (0 < count) && r.testBit (b - 1), v := false }
  | .roxl =>
    let r := rotated (b + 1) (bitNat x * 2 ^ b + u) (count % (b + 1))
    { value := BitVec.ofNat 32 (r % 2 ^ b), x := r.testBit b, c := r.testBit b, v := false }
  | .roxr =>
    let r := rotated (b + 1) (bitNat x * 2 ^ b + u) ((b + 1 - count % (b + 1)) % (b + 1))
    { value := BitVec.ofNat 32 (r % 2 ^ b), x := r.testBit b, c := r.testBit b, v := false }

/-- The status word after a shift. -/
def shiftStatus (sz : Size) (r : Shifted) (f : Status) : Status :=
  { f with x := r.x, n := negative sz r.value, z := decide (r.value = 0), v := r.v, c := r.c }

/-- A register shift of the kind: 1 to 8, or a data register modulo 64 (43 R269). -/
def ShiftsRegister (i : ShiftCount → Size → Reg → Instr) (k : ShiftKind) : Prop :=
  ∀ (s : State) (sz : Size) (n q m : Reg),
    (let r := shiftValue k sz (if q.val = 0 then 8 else q.val) (trunc sz (s.dreg n)) s.sr.x
     exec (i (.imm q) sz n) s = .next ((s.writeD n sz r.value).setSr (shiftStatus sz r s.sr))) ∧
    (let r := shiftValue k sz ((s.dreg m).toNat % 64) (trunc sz (s.dreg n)) s.sr.x
     exec (i (.reg m) sz n) s = .next ((s.writeD n sz r.value).setSr (shiftStatus sz r s.sr)))

/-- A memory shift of the kind: a word, by one. -/
def ShiftsMemory (i : Ea → Instr) (k : ShiftKind) : Prop :=
  ∀ (s s1 : State) (dst : Ea) (loc : Loc), (i dst).wf = true → resolve dst .w s = .ok loc s1 →
    Changes (i dst) .w s s1 loc (fun d => (shiftValue k .w 1 d s.sr.x).value)
      (fun d f => shiftStatus .w (shiftValue k .w 1 d s.sr.x) f)

/-- A bit operation on bit `bn` modulo 32 (a data register) or 8 (a byte), `new` giving the bit's new value (44 R280). -/
def ChangesBit (i : Instr) (dst : Ea) (bn : Nat) (s s0 : State) (new : Bool → Bool) : Prop :=
  ∀ (s1 : State) (loc : Loc), resolve dst (bitSize dst) s0 = .ok loc s1 →
    let k := bn % bitCount (bitSize dst)
    let d := (readLocFrom s1 loc (bitSize dst)).1
    let r := BitVec.ofNat 32 (d.toNat - 2 ^ k * bitNat (d.toNat.testBit k) + 2 ^ k * bitNat (new (d.toNat.testBit k)))
    ∀ s2 : State,
      writeLoc loc (bitSize dst) r
          ((readLocFrom s1 loc (bitSize dst)).2.setSr { s.sr with z := !d.toNat.testBit k }) = .ok () s2 →
        exec i s = .next s2

/-- The two forms of a bit operation that writes. -/
def BitOperation (st : Ea → Instr) (dyn : Reg → Ea → Instr) (new : Bool → Bool) : Prop :=
  (∀ (s : State) (dst : Ea), (st dst).wf = true →
    ChangesBit (st dst) dst ((word1 s).toNat % 256) s (after1 s) new) ∧
  (∀ (s : State) (n : Reg) (dst : Ea), (dyn n dst).wf = true → ChangesBit (dyn n dst) dst (s.dreg n).toNat s s new)

/-- Two decimal digits as a byte (45 R289). -/
def packed (t : Nat) : Word := BitVec.ofNat 32 (t / 10 * 16 + t % 10)

/-- A decimal operation whose exact result is `t`: the byte is `t mod 100`, `C` and `X` say whether `t` left 0..99, `Z` only
falls, `N` and `V` are some values (45 R289). -/
def DecimalResult (i : Instr) (s s1 : State) (loc : Loc) (t : Int) : Prop :=
  ∀ s2 : State, writeLoc loc .b (packed (t % 100).toNat) { s1 with draws := s1.draws + 2 } = .ok () s2 →
    ∃ n v : Bool, exec i s = .next (s2.setSr { s.sr with
      x := decide (t < 0 ∨ 99 < t), n := n, z := s.sr.z && decide (t % 100 = 0), v := v, c := decide (t < 0 ∨ 99 < t) })

/-- An operand with a digit above 9: some byte is written, all five flags are some values, the rest of the status word is
kept (45 R289). -/
def DecimalOpen (i : Instr) (s s1 : State) (loc : Loc) : Prop :=
  (∀ b : Byte, ∃ u, writeLoc loc .b (b.setWidth 32) { s1 with draws := s1.draws + 6 } = .ok () u) →
    ∃ (b : Byte) (u : State) (x n z v c : Bool),
      writeLoc loc .b (b.setWidth 32) { s1 with draws := s1.draws + 6 } = .ok () u ∧
      exec i s = .next (u.setSr { s.sr with x := x, n := n, z := z, v := v, c := c })

/-- A byte with a digit above 9. -/
def notDecimal (v : Word) : Prop := v.toNat < 256 ∧ (9 < v.toNat / 16 ∨ 9 < v.toNat % 16)

/-- The registers of a `MOVEM` mask from the lowest address up (40 R173): bit `i` names register `i`, but in the `-(An)`
form register `15 - i`. -/
def listUp (mask : Half) : List (Fin 16) := (List.finRange 16).filter (fun i => mask.getLsbD i.val)
def listDown (mask : Half) : List (Fin 16) := (List.finRange 16).filter (fun i => mask.getLsbD (15 - i.val))

/-- Values written to registers one after the other, sign-extended (40 R175). -/
def loadRegisters (sz : Size) : List (Fin 16 × Word) → State → State
  | [], s => s
  | (r, v) :: rest, s => loadRegisters sz rest (s.setReg16 r (BitVec.ofInt 32 (signedOf sz v)))

/-- The big-endian value of bytes. -/
def joined (l : List Word) : Nat := l.foldl (fun acc b => acc * 256 + b.toNat) 0

/-- The `k` most significant first bytes of the low `8 * k` bits. -/
def bytesFrom (v : Word) (k : Nat) : List Word :=
  (List.range k).map (fun j => BitVec.ofNat 32 (v.toNat / 256 ^ (k - 1 - j) % 256))

/-! ## Devices -/

/-- `n` calls of `advanceCycle()`: the manager, and how many were ticks. -/
def ticks : Nat → ClockManager → ClockManager × Nat
  | 0, c => (c, 0)
  | n + 1, c => ((ticks n c).1.advance.1, (ticks n c).2 + bitNat (ticks n c).1.advance.2)

/-- `n` calls of a timer's part of `clockCycle()`: the timer, and whether the last one underflowed. -/
def timerRun : Nat → Timer → Timer × Bool
  | 0, t => (t, false)
  | n + 1, t => (timerRun n t).1.clock

/-- `n` DMA clock periods. -/
def dmaRun : Nat → State → State
  | 0, s => s
  | n + 1, s => dacTick (dmaRun n s)

/-- `n` bus reads of the microwire mask word. -/
def maskReads : Nat → State → State
  | 0, s => s
  | n + 1, s => (memRead (maskReads n s) 0x00FF8924 .w).2

/-- A read access of the SteDAC that covers a byte of the microwire mask (63 R562 (b)). -/
def coversMask (a : Word) (sz : Size) : Prop :=
  0xFF8900 ≤ busAddr a ∧ busAddr a ≤ 0xFF8925 ∧ 0xFF8924 < busAddr a + byteCount sz

/-- 16 bits turned left by one. -/
def turned (m : Half) : Half := BitVec.ofNat 16 (m.toNat * 2 % 0x10000 + m.toNat / 0x8000)

/-- A register of the PSG as a number. -/
def psgNat (g : Psg) (r : Nat) : Nat := (g.reg (BitVec.ofNat 4 r)).toNat

/-- `g[k]` of the mix, from the generator's state (62 R532, R533). -/
def heard (g : Psg) (k : Fin 3) : Nat :=
  let envelope := if g.eattack then g.estep.toNat else 31 - g.estep.toNat
  let level := if psgNat g (8 + k.val) / 16 % 2 = 1 then envelope else 2 * (psgNat g (8 + k.val) % 16) + 1
  if (g.tout[k] ∨ psgNat g 7 / 2 ^ k.val % 2 = 1) ∧ (g.lfsr.toNat % 2 = 1 ∨ psgNat g 7 / 2 ^ (3 + k.val) % 2 = 1) then level
  else 0

/-- The envelope after `EnvelopeStep()` on `g` (62 R532). -/
def EnvelopeStepped (g h : Psg) : Prop :=
  let shape := psgNat g 13 % 16
  if g.estep.toNat < 31 then h.estep.toNat = g.estep.toNat + 1 ∧ h.eattack = g.eattack ∧ h.ehold = false
  else if shape < 8 then h.estep = 31 ∧ h.eattack = false ∧ h.ehold = true
  else
    h.eattack = (g.eattack ^^ decide (shape / 2 % 2 = 1)) ∧
      (if shape % 2 = 1 then h.estep = 31 ∧ h.ehold = true else h.estep = 0 ∧ h.ehold = false)

/-- `n` PSG clock periods. -/
def psgRun (table : List Nat) : Nat → Psg → Psg
  | 0, p => p
  | n + 1, p => ((psgRun table n p).clockCycle table).1

end Sys2Proof.Machine.Claims

open Sys2Proof Sys2Proof.Machine Sys2Proof.Machine.Claims

/-! # Encodings -/

/-- 30_encoding R121, R150: decoding the encoding of any instruction of the table gives it back. -/
def Obligations.DecodeOfEncode : Prop := ∀ i : Instr, i.wf = true → decode (encode i) = .ok i

/-- 30_encoding R121: a first word that decodes gives an instruction of the table, and is that instruction's only word. -/
def Obligations.EncodeOfDecode : Prop :=
  ∀ (w : Half) (i : Instr), decode w = .ok i → i.wf = true ∧ encode i = w

/-- 30_encoding R141: the indexed extension word is read bit by bit, none dropped, in both formats. -/
def Obligations.IndexWordRoundTrip : Prop :=
  (∀ w : Half, encodeIndex (decodeIndex w) = w) ∧ (∀ x : IndexWord, decodeIndex (encodeIndex x) = x)

/-- Words of the spec's own examples, one for each file of instructions. -/
def Obligations.ExampleWordsDecode : Prop :=
  decode 0x5240 = .ok (.addq 1 .w (.dn 0)) ∧ decode 0x7001 = .ok (.moveq 0 0x01) ∧ decode 0x4A40 = .ok (.tst .w (.dn 0)) ∧
  decode 0x81C1 = .ok (.divs 0 (.dn 1)) ∧ decode 0xC101 = .ok (.abcd 0 .regs 1) ∧ decode 0x56C0 = .ok (.scc .ne (.dn 0)) ∧
  decode 0x4E73 = .ok .rte ∧ decode 0x51C8 = .ok (.dbcc .f 0) ∧ decode 0x4840 = .ok (.swap 0) ∧
  decode 0x6704 = .ok (.bcc .eq 0x04) ∧ decode 0x4AFC = .error .decodeMiss

/-! # The step -/

/-- 60 R401, R431, 64 R610: with no fault, no accepted interrupt and no wait, a base cycle is `exec` of the instruction at
`PC`, then the device phases; with `T = 1` it is refused. -/
def Obligations.StepRunsInstruction : Prop :=
  ∀ (s : State) (i : Instr), s.fault = none → ¬ requested s → s.stopped = false → s.pc ≠ s.params.hostReturnAddress →
    decode (fetchWord { s with trap := false }).1 = .ok i →
    (s.sr.t = false → ∀ t : State, exec i (fetchWord { s with trap := false }).2 = .next t →
      step s = .next (devicePhases t)) ∧
    (s.sr.t = false → ∀ r : Refusal, exec i (fetchWord { s with trap := false }).2 = .refused r → step s = .refused r) ∧
    (s.sr.t = true → step s = .refused .traceUnspecified) ∧
    (fetchWord { s with trap := false }).2.pc = s.pc + 2

/-- 30_encoding R121, R153: all of lines A and F and the word of `ILLEGAL` are decode-misses, and executing a decode-miss
latches the fault. That the registers, the stack pointers, `SR`, `VBR`, RAM, the PSG and the MFP are then as before is the
model's choice (log 8): by R420 and 93 U6 only the fault itself, and that no further instruction executes, may be relied on. -/
def Obligations.DecodeMissLatchesFault : Prop :=
  (∀ w : Half, (w.toNat / 0x1000 = 10 ∨ w.toNat / 0x1000 = 15 ∨ w = 0x4AFC) → decode w = .error .decodeMiss) ∧
  (∀ (s : State) (e : DecodeError), s.fault = none → ¬ requested s → s.stopped = false →
    s.pc ≠ s.params.hostReturnAddress → decode (fetchWord s).1 = .error e →
    ∃ u : State, step s = .next (devicePhases u) ∧ u.fault = some .decodeMiss ∧ u.trap = false ∧ u.d = s.d ∧ u.a = s.a ∧
      u.usp = s.usp ∧ u.ssp = s.ssp ∧ u.isp = s.isp ∧ u.sr = s.sr ∧ u.vbr = s.vbr ∧ u.ram = s.ram ∧ u.psg = s.psg ∧
      u.mfp = s.mfp)

/-- 60 R420: once a host-level fault is latched, every later step goes on and changes no CPU state and no RAM. -/
def Obligations.FaultIsSticky : Prop :=
  ∀ (k : Nat) (s : State) (r : Fault), s.fault = some r →
    ∃ t : State, Runs k s t ∧ (∀ u, Runs k s u → u = t) ∧ t.fault = some r ∧ t.validInsn = false ∧ t.d = s.d ∧ t.a = s.a ∧
      t.usp = s.usp ∧ t.ssp = s.ssp ∧ t.isp = s.isp ∧ t.pc = s.pc ∧ t.sr = s.sr ∧ t.vbr = s.vbr ∧
      t.stopped = s.stopped ∧ t.ram = s.ram

/-- 60 R401 line 3: stopped, or parked at the host's return address, the CPU fetches nothing and changes nothing. -/
def Obligations.WaitingFetchesNothing : Prop :=
  ∀ s : State, s.fault = none → ¬ requested s → (s.stopped = true ∨ s.pc = s.params.hostReturnAddress) →
    step s = .next (devicePhases { s with trap := false })

/-- 60 R440, 61 R490, R491: a request that beats the mask is serviced before any fetch, also while stopped, with the vector
of the highest pending and unmasked channel, whose pending bit is cleared. -/
def Obligations.InterruptIsTaken : Prop :=
  ∀ (s t : State) (ch : Fin 16), s.fault = none → requested s → (s.mfp.ipr &&& s.mfp.imr).getLsbD ch.val = true →
    (∀ j : Nat, ch.val < j → (s.mfp.ipr &&& s.mfp.imr).getLsbD j = false) →
    Entered ((s.mfp.vr &&& 0xF0) ||| BitVec.ofNat 8 ch.val) s.pc (.interrupt s.params.mfpIrqLevel)
      { s with trap := false, mfp := { s.mfp with ipr := s.mfp.ipr &&& ~~~ BitVec.ofNat 16 (2 ^ ch.val) } } t →
    step s = .next (devicePhases t)

/-! # Exceptions -/

/-- 60 R410: taking an exception is the three pushes and the load of the vector, through the bus; with the stack in RAM it leaves the 8-byte frame (status word, program counter, format
word, from the new stack pointer up), the new status word, `PC` from the vector, and everything else as it was. -/
def Obligations.ExceptionFrame : Prop :=
  ∀ (vector : Byte) (ret : Word) (k : ExceptionKind) (s : State),
    (∀ t : State, Entered vector ret k s t → exceptionEntry vector ret k s = .ok () t) ∧
    (canEnter vector k s → ∃ t : State, Entered vector ret k s t ∧
      t.sr = onEntry s.sr k ∧ t.sp = entrySp k s - 8 ∧ t.stopped = false ∧ t.trap = true ∧
      (memRead t t.sp .w).1 = s.sr.toWord.setWidth 32 ∧ (memRead t (t.sp + 2) .l).1 = ret ∧
      (memRead t (t.sp + 6) .w).1 = formatWord vector ∧
      t.pc = (memRead t (vectorSlot s vector) .l).1 ∧
      (∀ x : Word, outside x [(t.sp, 8)] → peek t x = peek s x) ∧
      t.d = s.d ∧ t.a = s.a ∧ t.vbr = s.vbr ∧ t.psg = s.psg ∧ t.mfp = s.mfp ∧ t.dac = s.dac ∧ t.fault = s.fault ∧
      t.usp = s.usp ∧ (if (onEntry s.sr k).m then t.isp = s.isp else t.ssp = s.ssp))

/-- 47 R340, R341, R342, 41 R229, R230, 60 R411: `TRAP`, `TRAPV`, `CHK` out of bounds and a division by zero enter their
vectors with the address of the next instruction; the flags R342, R229 and R230 leave open are some values. -/
def Obligations.TrapsEnterTheirVectors : Prop :=
  (∀ (s t : State) (v : Fin 16), Entered (BitVec.ofNat 8 (32 + v.val)) s.pc .other s t → exec (.trap v) s = .next t) ∧
  (∀ s t : State, s.sr.v = true → Entered 7 s.pc .other s t → exec .trapv s = .next t) ∧
  (∀ (s s1 : State) (n : Reg) (src : Ea) (b : Word), (Instr.chk n src).wf = true → readEa src .w s = .ok b s1 →
    (signedOf .w (trunc .w (s.dreg n)) < 0 ∨ signedOf .w b < signedOf .w (trunc .w (s.dreg n))) →
    ∃ z v c : Bool, ∀ t : State,
      Entered 6 s1.pc .other ({ s1 with draws := s1.draws + 3 }.setSr { s.sr with
        n := decide (signedOf .w (trunc .w (s.dreg n)) < 0), z := z, v := v, c := c }) t →
      exec (.chk n src) s = .next t) ∧
  (∀ (s s1 : State) (n : Reg) (src : Ea), (Instr.divu n src).wf = true → readEa src .w s = .ok 0 s1 →
    (∃ f z v : Bool, ∀ t : State,
      Entered 5 s1.pc .other ({ s1 with draws := s1.draws + 3 }.setSr { s.sr with n := f, z := z, v := v, c := false }) t →
      exec (.divu n src) s = .next t) ∧
    (∃ f z v : Bool, ∀ t : State,
      Entered 5 s1.pc .other ({ s1 with draws := s1.draws + 3 }.setSr { s.sr with n := f, z := z, v := v, c := false }) t →
      exec (.divs n src) s = .next t))

/-- 60 R404: in user mode every privileged instruction only enters vector 8, with the address of its first word. -/
def Obligations.PrivilegeViolation : Prop :=
  ∀ (s t : State) (i : Instr), i.privileged = true → s.sr.s = false → Entered 8 (s.pc - 2) .other s t → exec i s = .next t

/-- 47 R344: `RTE` in supervisor mode reads the frame from the active stack: with format 0 or 1 the status word and `PC`
come from it and 8 bytes are dropped from the stack it was read from; with another format the fault is latched. That `SR`,
the stack pointers, the registers and RAM are then unchanged is the model's choice (log 8), not R420's or 93 U6's. -/
def Obligations.ReturnFromException : Prop :=
  ∀ (s s1 s2 s3 : State) (w p f : Word), s.sr.s = true → memRead s s.sp .w = (w, s1) →
    memRead s1 (s.sp + 2) .l = (p, s2) → memRead s2 (s.sp + 6) .w = (f, s3) →
    (f.toNat < 0x2000 → exec .rte s = .next { s3.setSp (s.sp + 8) with sr := Status.ofWord (w.setWidth 16), pc := p }) ∧
    (0x2000 ≤ f.toNat → ∃ t : State, exec .rte s = .next t ∧ t.fault = some .badFrameFormat ∧ t.sr = s.sr ∧
      t.usp = s.usp ∧ t.ssp = s.ssp ∧ t.isp = s.isp ∧ t.d = s.d ∧ t.a = s.a ∧ t.ram = s.ram)

/-- 60 R410 with 47 R344: returning from an exception right after taking it, on a stack in RAM, restores the status word, the
three stack pointers, every register and the stacked program counter; memory outside the frame is as it was. -/
def Obligations.ExceptionRoundTrip : Prop :=
  ∀ (vector : Byte) (ret : Word) (k : ExceptionKind) (s t : State), canEnter vector k s → Entered vector ret k s t →
    ∃ u : State, exec .rte t = .next u ∧ u.sr = s.sr ∧ u.pc = ret ∧ u.d = s.d ∧ u.a = s.a ∧ u.usp = s.usp ∧
      u.ssp = s.ssp ∧ u.isp = s.isp ∧ u.vbr = s.vbr ∧ ∀ x : Word, outside x [(t.sp, 8)] → peek u x = peek s x

/-- 60 R404, 10_state R24: an instruction run in user mode that takes no exception stays in user mode and changes neither
the system byte of the status word nor a supervisor stack pointer. That this holds of a next state with a host-level
fault latched is the model's choice (log 8): R420, 93 U6 and 92 D40 let only the fault be relied on there. -/
def Obligations.UserModeConfined : Prop :=
  ∀ (i : Instr) (s t : State), exec i s = .next t → s.sr.s = false → t.trap = false →
    t.sr.s = false ∧ t.sr.t = s.sr.t ∧ t.sr.m = s.sr.m ∧ t.sr.i = s.sr.i ∧ t.ssp = s.ssp ∧ t.isp = s.isp

/-! # Frames -/

/-- 10_state R32, R39, 64 R610, 60 R421: no instruction changes the parameters, `VBR`, a clock manager or the host's protocol
bit; a host-level fault is latched only by an indexed operand, by `RTE` and by `RESET`, and no instruction clears one. That the
rest is unchanged where one is latched is the model's choice (log 8): R420, 93 U6 and 92 D40 let only the fault be relied
on there. -/
def Obligations.SpecialStateFrame : Prop :=
  ∀ (i : Instr) (s t : State), exec i s = .next t → t.params = s.params ∧ t.vbr = s.vbr ∧ t.psgClock = s.psgClock ∧
    t.mfpClock = s.mfpClock ∧ t.dacClock = s.dacClock ∧ t.callMade = s.callMade ∧ t.ram.unlisted = s.ram.unlisted ∧
    (t.fault = s.fault ∨
      (t.fault = some .unsupportedExtensionWord ∧
        ∃ e ∈ (written i).toList.map Prod.snd ++ consulted i, (∃ n, e = .index n) ∨ e = .pcIndex) ∨
      (t.fault = some .badFrameFormat ∧ i = .rte) ∨ (t.fault = some .resetInstruction ∧ i = .reset))

/-- 00_scope R19, 61 R471: an instruction always ends in a next state, but for a write that selects a pulse-width timer
mode, the one refusal an instruction can meet. -/
def Obligations.InstructionsEnd : Prop :=
  (∀ (i : Instr) (s : State), (∃ t, exec i s = .next t) ∨ exec i s = .refused .pwmModeUnspecified) ∧
  (∀ (s : State) (a : Word) (sz : Size) (v : Word) (r : Refusal), memWrite s a sz v = .error r →
    r = .pwmModeUnspecified ∧ 0xFFFA00 ≤ busAddr a ∧ busAddr a < 0xFFFA40)

/-- 00_scope R11: an instruction leaves every data register that is not a destination of its own as it was. That this holds of a next state with a host-level
fault latched is the model's choice (log 8): R420, 93 U6 and 92 D40 let only the fault be relied on there. -/
def Obligations.DataRegisterFrame : Prop :=
  ∀ (i : Instr) (s t : State) (n : Reg), exec i s = .next t → n ∉ writesD i s → t.dreg n = s.dreg n

/-- 00_scope R11, 10_state R24: the same for address registers; of the stack pointers only the active one can change, and it
only where register 7 may be written, an exception and `MOVE An,USP` apart. That this holds of a next state with a host-level
fault latched is the model's choice (log 8): R420, 93 U6 and 92 D40 let only the fault be relied on there. -/
def Obligations.AddressRegisterFrame : Prop :=
  (∀ (i : Instr) (s t : State) (n : Reg), exec i s = .next t → n.val < 7 → n ∉ writesA i s → t.areg n = s.areg n) ∧
  (∀ (i : Instr) (s t : State), exec i s = .next t → t.trap = false →
    ((s.sr.s = true ∨ (7 : Reg) ∉ writesA i s) → (∀ n, i ≠ .moveAnUsp n) → t.usp = s.usp) ∧
    ((s.sr.s = false ∨ s.sr.m = true ∨ (7 : Reg) ∉ writesA i s) → t.isp = s.isp) ∧
    ((s.sr.s = false ∨ s.sr.m = false ∨ (7 : Reg) ∉ writesA i s) → t.ssp = s.ssp))

/-- 10_state R30, and the flag lines of the rules of files 40 to 47 that it sums up; for the system byte 10_state R29: an
instruction that takes no exception changes only the part of the status word that its rule names. That this holds of a next state with a host-level
fault latched is the model's choice (log 8): R420, 93 U6 and 92 D40 let only the fault be relied on there. -/
def Obligations.StatusFrame : Prop :=
  ∀ (i : Instr) (s t : State), exec i s = .next t → t.trap = false → sameBut (statusPart i) s.sr t.sr

/-- 00_scope R14, 20_memory R95: an instruction that takes no exception leaves every byte of memory it does not store to as
it was; where it stores to a device, every byte of RAM. The two bytes of the microwire mask are the one place where a read shows, and
only within a transaction. An instruction that stores nothing changes no device otherwise. That this holds of a next state with a host-level
fault latched is the model's choice (log 8): R420, 93 U6 and 92 D40 let only the fault be relied on there. -/
def Obligations.MemoryFrame : Prop :=
  ∀ (i : Instr) (s t : State), i.wf = true → exec i s = .next t → t.trap = false →
    (∀ x : Word, outside x (stores i s) →
      (busAddr x < Config.ramSize ∨ ∀ p ∈ stores i s, ∀ d o, route p.1 = some (d, o) → d = .ram) →
      (s.dac.mwCycles = 0 ∨ ¬ isMaskByte x) → peek t x = peek s x) ∧
    (stores i s = [] → t.ram = s.ram ∧ t.psg = s.psg ∧ t.mfp = s.mfp ∧
      { t.dac with mwMask := s.dac.mwMask, mwCycles := s.dac.mwCycles } = s.dac)

/-! # Registers, operands, memory -/

/-- 00_scope R11: a write of size `B` or `W` to a data register replaces its low bits and keeps the rest; a write to an
address register replaces all 32 bits; no other register changes. -/
def Obligations.RegisterWrites : Prop :=
  ∀ (s : State) (n m : Reg) (v : Word),
    ((s.writeD n .b v).dreg n).toNat = (s.dreg n).toNat / 0x100 * 0x100 + v.toNat % 0x100 ∧
    ((s.writeD n .w v).dreg n).toNat = (s.dreg n).toNat / 0x10000 * 0x10000 + v.toNat % 0x10000 ∧
    (s.writeD n .l v).dreg n = v ∧ (s.setA n v).areg n = v ∧
    (∀ sz, (m ≠ n → (s.writeD n sz v).dreg m = s.dreg m) ∧ (s.writeD n sz v).areg m = s.areg m) ∧
    (m ≠ n → (s.setA n v).areg m = s.areg m) ∧ (s.setA n v).dreg m = s.dreg m

/-- 10_state R24: register number 7 is `USP`, `ISP` or `SSP` as `S` and `M` say, read and written. -/
def Obligations.ActiveStackPointer : Prop :=
  ∀ (s : State) (v : Word),
    (s.sr.s = false → s.areg 7 = s.usp ∧ s.setA 7 v = { s with usp := v }) ∧
    (s.sr.s = true → s.sr.m = false → s.areg 7 = s.isp ∧ s.setA 7 v = { s with isp := v }) ∧
    (s.sr.s = true → s.sr.m = true → s.areg 7 = s.ssp ∧ s.setA 7 v = { s with ssp := v }) ∧ s.sp = s.areg 7

/-- 10_state R28: the status word as 16 bits: reading what was written gives the implemented bits, and every status word
reads as the bits its layout names. -/
def Obligations.StatusWordLayout : Prop :=
  (∀ w : Half, (Status.ofWord w).toWord = w &&& 0xB71F) ∧ (∀ f : Status, Status.ofWord f.toWord = f) ∧
  (∀ f : Status, f.toWord.toNat = 0x8000 * bitNat f.t + 0x2000 * bitNat f.s + 0x1000 * bitNat f.m + 0x100 * f.i.toNat +
    16 * bitNat f.x + 8 * bitNat f.n + 4 * bitNat f.z + 2 * bitNat f.v + bitNat f.c) ∧
  (∀ (f : Status) (w : Half), (f.withCcr w).toWord = (f.toWord &&& 0xFF00) ||| (w &&& 0x001F))

/-- 30_encoding R130..R142: what each addressing mode gives. -/
def Obligations.AddressingModes : Prop :=
  ∀ (s : State) (n : Reg) (sz : Size),
    let step : Word := if sz = .b ∧ n = 7 then 2 else BitVec.ofNat 32 (byteCount sz)
    let w := word1 s
    let w2 := word1 (after1 s)
    let disp : Word := BitVec.ofInt 32 w.toInt
    let long : Word := BitVec.ofNat 32 (w.toNat * 0x10000 + w2.toNat)
    resolve (.dn n) sz s = .ok (.dreg n) s ∧
    resolve (.an n) sz s = .ok (.areg n) s ∧
    resolve (.ind n) sz s = .ok (.mem (s.areg n)) s ∧
    resolve (.postinc n) sz s = .ok (.mem (s.areg n)) (s.setA n (s.areg n + step)) ∧
    resolve (.predec n) sz s = .ok (.mem (s.areg n - step)) (s.setA n (s.areg n - step)) ∧
    resolve (.disp n) sz s = .ok (.mem (s.areg n + disp)) (after1 s) ∧
    resolve .absW sz s = .ok (.mem disp) (after1 s) ∧
    resolve .absL sz s = .ok (.mem long) (after1 (after1 s)) ∧
    resolve .pcDisp sz s = .ok (.mem (s.pc + disp)) (after1 s) ∧
    resolve .imm .b s = .ok (.imm (BitVec.ofNat 32 (w.toNat % 0x100))) (after1 s) ∧
    resolve .imm .w s = .ok (.imm (BitVec.ofNat 32 w.toNat)) (after1 s) ∧
    resolve .imm .l s = .ok (.imm long) (after1 (after1 s)) ∧
    (∀ a s1, indexAddress (s.areg n) s = .ok a s1 → resolve (.index n) sz s = .ok (.mem a) s1) ∧
    (∀ a s1, indexAddress s.pc s = .ok a s1 → resolve .pcIndex sz s = .ok (.mem a) s1) ∧
    (after1 s).pc = s.pc + 2 ∧ (w.setWidth 32 : Word) = (memRead s s.pc .w).1

/-- 30_encoding R139..R141: an indexed address is base, displacement and scaled index; the full-format forms that this
hardware does not have latch the fault. -/
def Obligations.IndexedAddress : Prop :=
  ∀ (s : State) (base : Word),
    let w := (word1 s).toNat
    let r : Word := if w / 0x8000 = 1 then s.areg (Fin.ofNat 8 (w / 0x1000)) else s.dreg (Fin.ofNat 8 (w / 0x1000))
    let x : Int := if w / 0x800 % 2 = 1 then r.toNat else signedOf .w (trunc .w r)
    let scaled : Int := x * 2 ^ (w / 0x200 % 4)
    (w / 0x100 % 2 = 0 →
      indexAddress base s = .ok (ofValue .l (base.toNat + signedOf .b (BitVec.ofNat 32 (w % 0x100)) + scaled)) (after1 s)) ∧
    (w / 0x100 % 2 = 1 → w % 0x100 = 0x20 →
      indexAddress base s = .ok (ofValue .l (base.toNat + (word1 (after1 s)).toInt + scaled)) (after1 (after1 s))) ∧
    (w / 0x100 % 2 = 1 → w % 0x100 = 0x30 →
      indexAddress base s = .ok (ofValue .l (base.toNat +
        ((word1 (after1 s)).toNat * 0x10000 + (word1 (after1 (after1 s))).toNat : Nat) + scaled))
        (after1 (after1 (after1 s)))) ∧
    (w / 0x100 % 2 = 1 → w % 0x100 ≠ 0x20 → w % 0x100 ≠ 0x30 →
      indexAddress base s = .error (.fault .unsupportedExtensionWord) (after1 s))

/-- 30_encoding R130..R143: resolving an operand always answers, but for an indexed mode whose extension word this hardware
does not have; it changes no data register, no status bit and no memory; and a value read has the operand's size. -/
def Obligations.OperandsResolve : Prop :=
  ∀ (e : Ea) (sz : Size) (s : State),
    ((∃ loc s1, resolve e sz s = .ok loc s1 ∧ s1.d = s.d ∧ s1.sr = s.sr ∧ s1.ram = s.ram ∧ s1.psg = s.psg ∧
        s1.mfp = s.mfp ∧ ∃ v s2, readEa e sz s = .ok v s2 ∧ v.toNat < 2 ^ bitCount sz) ∨
      ((∃ n, e = .index n) ∨ e = .pcIndex) ∧ (word1 s).toNat / 0x100 % 2 = 1 ∧ (word1 s).toNat % 0x100 ≠ 0x20 ∧
        (word1 s).toNat % 0x100 ≠ 0x30 ∧ ∃ s1, resolve e sz s = .error (.fault .unsupportedExtensionWord) s1)

/-- 20_memory R87, R89, R90: RAM is big-endian at every width, bytes past its end read 0 and are not stored, and a write is
seen by every later read, of whatever width. -/
def Obligations.RamBytes : Prop :=
  ∀ (s : State) (a : Word), busAddr a < Config.ramSize →
    (∀ sz, (memRead s a sz).2 = s ∧ (memRead s a sz).1.toNat =
      ((List.range (byteCount sz)).map (fun k =>
        if busAddr a + k < Config.ramSize then (s.ram.read (busAddr a + k)).toNat * 256 ^ (byteCount sz - 1 - k) else 0)).sum)
    ∧ (∀ (sz : Size) (v : Word), ∃ t : State, memWrite s a sz v = .ok t ∧ t = { s with ram := t.ram } ∧
      ∀ x : Word, busAddr x < Config.ramSize → (peek t x).toNat =
        if busAddr a ≤ busAddr x ∧ busAddr x < busAddr a + byteCount sz then
          v.toNat / 256 ^ (byteCount sz - 1 - (busAddr x - busAddr a)) % 256
        else (peek s x).toNat)

/-- 20_memory R82, R84, R86: the top address byte is ignored, and an address in no range reads 0 and discards writes. -/
def Obligations.BusRouting : Prop :=
  (∀ (s : State) (a b : Word) (sz : Size) (v : Word), a.toNat % 0x1000000 = b.toNat % 0x1000000 →
    memRead s a sz = memRead s b sz ∧ memWrite s a sz v = memWrite s b sz v) ∧
  (∀ (s : State) (a : Word) (sz : Size) (v : Word),
    0x800000 ≤ a.toNat % 0x1000000 → ¬ (0xFF8800 ≤ a.toNat % 0x1000000 ∧ a.toNat % 0x1000000 < 0xFF8804) →
    ¬ (0xFF8900 ≤ a.toNat % 0x1000000 ∧ a.toNat % 0x1000000 < 0xFF8926) →
    ¬ (0xFFFA00 ≤ a.toNat % 0x1000000 ∧ a.toNat % 0x1000000 < 0xFFFA40) →
    memRead s a sz = (0, s) ∧ memWrite s a sz v = .ok s)

/-! # Data movement -/

/-- 40 R170, R171, R172: `MOVE` in three sizes, `MOVEA` in two, `MOVEQ`. -/
def Obligations.MoveResults : Prop :=
  (∀ p ∈ [(Instr.moveB, Size.b), (Instr.moveW, Size.w), (Instr.moveL, Size.l)],
    ∀ (s s1 s2 s3 : State) (dst src : Ea) (v : Word) (loc : Loc), (p.1 dst src).wf = true →
      readEa src p.2 s = .ok v s1 → resolve dst p.2 s1 = .ok loc s2 → writeLoc loc p.2 v s2 = .ok () s3 →
      exec (p.1 dst src) s = .next (s3.setSr (logicStatus p.2 v s.sr))) ∧
  (∀ p ∈ [(Instr.moveaW, Size.w), (Instr.moveaL, Size.l)],
    ∀ (s s1 : State) (n : Reg) (src : Ea) (v : Word), readEa src p.2 s = .ok v s1 →
      exec (p.1 n src) s = .next (s1.setA n (BitVec.ofInt 32 (signedOf p.2 v)))) ∧
  (∀ (s : State) (n : Reg) (d : Byte), exec (.moveq n d) s = .next
    ((s.setD n (BitVec.ofInt 32 d.toInt)).setSr
      { s.sr with n := decide (128 ≤ d.toNat), z := decide (d = 0), v := false, c := false }))

/-- 40 R173, R174, R175: the registers of a `MOVEM` list lie at rising addresses in the order `D0..D7`, `A0..A7`; the
`-(An)` form stores from the top down and leaves the last address in `An`, the `(An)+` form the one after the last. -/
def Obligations.MovemResults : Prop :=
  ∀ (s : State) (long : Bool),
    let sz := movemSize long
    let w := byteCount sz
    (∀ (r : Reg) (t : State),
      let l := (listDown (word1 s)).reverse
      storeAll sz (l.mapIdx (fun j i => (s.areg r - BitVec.ofNat 32 (w * (j + 1)), trunc sz (s.reg16 i)))) (after1 s)
          = .ok t →
      exec (.movemToMem long (.predec r)) s = .next (t.setA r (s.areg r - BitVec.ofNat 32 (w * l.length)))) ∧
    (∀ (e : Ea) (a : Word) (s1 t : State), (Instr.movemToMem long e).wf = true → (∀ r, e ≠ .predec r) →
      resolve e sz (after1 s) = .ok (.mem a) s1 →
      storeAll sz ((listUp (word1 s)).mapIdx (fun j i => (a + BitVec.ofNat 32 (w * j), trunc sz (s.reg16 i)))) s1 = .ok t →
      exec (.movemToMem long e) s = .next t) ∧
    (∀ r : Reg,
      let l := listUp (word1 s)
      let q := readAll sz (l.mapIdx (fun j _ => s.areg r + BitVec.ofNat 32 (w * j))) (after1 s)
      exec (.movemToRegs long (.postinc r)) s =
        .next ((loadRegisters sz (l.zip q.1) q.2).setA r (s.areg r + BitVec.ofNat 32 (w * l.length)))) ∧
    (∀ (e : Ea) (a : Word) (s1 : State), (Instr.movemToRegs long e).wf = true → (∀ r, e ≠ .postinc r) →
      resolve e sz (after1 s) = .ok (.mem a) s1 →
      let l := listUp (word1 s)
      let q := readAll sz (l.mapIdx (fun j _ => a + BitVec.ofNat 32 (w * j))) s1
      exec (.movemToRegs long e) s = .next (loadRegisters sz (l.zip q.1) q.2))

/-- 40 R176: `MOVEP` moves 2 or 4 bytes to or from every other address, the most significant first. -/
def Obligations.MovepResults : Prop :=
  ∀ (s : State) (x y : Reg) (long : Bool),
    let k := if long then 4 else 2
    let at_ := spread (s.areg y + BitVec.ofInt 32 (word1 s).toInt) 2 k
    (∀ t : State, storeAll .b (at_.zip (bytesFrom (s.dreg x) k)) (after1 s) = .ok t →
      exec (.movep x true long y) s = .next t) ∧
    exec (.movep x false long y) s = .next ((readAll .b at_ (after1 s)).2.writeD x (if long then .l else .w)
      (BitVec.ofNat 32 (joined (readAll .b at_ (after1 s)).1)))

/-- 40 R177..R181: `LEA`, `PEA`, the three `EXG`, `LINK` and `UNLK`; for `A7` the values R180 and R181 leave open are some
values. -/
def Obligations.AddressAndStackMoves : Prop :=
  (∀ (s s1 : State) (n : Reg) (src : Ea) (a : Word), (Instr.lea n src).wf = true → resolve src .l s = .ok (.mem a) s1 →
    exec (.lea n src) s = .next (s1.setA n a)) ∧
  (∀ (s s1 t : State) (src : Ea) (a : Word), (Instr.pea src).wf = true → resolve src .l s = .ok (.mem a) s1 →
    memWrite (s1.setSp (s.sp - 4)) (s.sp - 4) .l a = .ok t → exec (.pea src) s = .next t) ∧
  (∀ (s : State) (x y : Reg),
    exec (.exgDD x y) s = .next ((s.setD x (s.dreg y)).setD y (s.dreg x)) ∧
    exec (.exgAA x y) s = .next ((s.setA x (s.areg y)).setA y (s.areg x)) ∧
    exec (.exgDA x y) s = .next ((s.setD x (s.areg y)).setA y (s.dreg x))) ∧
  (∀ (s t : State) (n : Reg), n ≠ 7 → memWrite ((after1 s).setSp (s.sp - 4)) (s.sp - 4) .l (s.areg n) = .ok t →
    exec (.link n) s = .next ((t.setA n (s.sp - 4)).setSp (s.sp - 4 + BitVec.ofInt 32 (word1 s).toInt))) ∧
  (∀ s : State, ∃ any : Word, ∀ t : State,
    memWrite { (after1 s).setSp (s.sp - 4) with draws := s.draws + 1 } (s.sp - 4) .l any = .ok t →
    exec (.link 7) s = .next (t.setSp (s.sp - 4 + BitVec.ofInt 32 (word1 s).toInt))) ∧
  (∀ (s : State) (n : Reg), n ≠ 7 → exec (.unlk n) s = .next
    (((memRead s (s.areg n) .l).2.setSp (s.areg n + 4)).setA n (memRead s (s.areg n) .l).1)) ∧
  (∀ s : State, ∃ any : Word,
    exec (.unlk 7) s = .next { (memRead s s.sp .l).2.setSp any with draws := s.draws + 1 })

/-! # Integer arithmetic -/

/-- 41 R200, R201, R203, R204: the additions that set flags. -/
def Obligations.AddResults : Prop :=
  EaToRegister .addEaDn (fun sz s d => sumValue sz s d false) (fun sz s d => sumStatus sz s d false) ∧
  RegisterToEa .addDnEa (fun sz s d => sumValue sz s d false) (fun sz s d => sumStatus sz s d false) ∧
  ImmediateToEa .addi (fun sz s d => sumValue sz s d false) (fun sz s d => sumStatus sz s d false) ∧
  (∀ (s s1 : State) (q : Reg) (sz : Size) (dst : Ea) (loc : Loc), (Instr.addq q sz dst).wf = true → dst.isAn = false →
    resolve dst sz s = .ok loc s1 →
    let k : Word := BitVec.ofNat 32 (if q.val = 0 then 8 else q.val)
    Changes (.addq q sz dst) sz s s1 loc (fun d => sumValue sz k d false) (fun d => sumStatus sz k d false))

/-- 41 R210, R211, R213, R214, R224: the subtractions that set flags, and `NEG`. -/
def Obligations.SubtractResults : Prop :=
  EaToRegister .subEaDn (fun sz s d => differenceValue sz s d false) (fun sz s d => differenceStatus sz s d false) ∧
  RegisterToEa .subDnEa (fun sz s d => differenceValue sz s d false) (fun sz s d => differenceStatus sz s d false) ∧
  ImmediateToEa .subi (fun sz s d => differenceValue sz s d false) (fun sz s d => differenceStatus sz s d false) ∧
  (∀ (s s1 : State) (q : Reg) (sz : Size) (dst : Ea) (loc : Loc), (Instr.subq q sz dst).wf = true → dst.isAn = false →
    resolve dst sz s = .ok loc s1 →
    let k : Word := BitVec.ofNat 32 (if q.val = 0 then 8 else q.val)
    Changes (.subq q sz dst) sz s s1 loc (fun d => differenceValue sz k d false) (fun d => differenceStatus sz k d false)) ∧
  InPlace .neg (fun sz _ d => differenceValue sz d 0 false) (fun sz d => differenceStatus sz d 0 false)

/-- 41 R205, R215, R225: `ADDX`, `SUBX`, `NEGX`: the old `X` enters the result, and `Z` only falls. -/
def Obligations.ExtendedResults : Prop :=
  (∀ (s : State) (x y : Reg) (sz : Size),
    (let v := trunc sz (s.dreg y)
     let d := trunc sz (s.dreg x)
     exec (.addx x sz .regs y) s = .next ((s.writeD x sz (sumValue sz v d s.sr.x)).setSr
       (sticky s.sr (sumStatus sz v d s.sr.x s.sr))) ∧
     exec (.subx x sz .regs y) s = .next ((s.writeD x sz (differenceValue sz v d s.sr.x)).setSr
       (sticky s.sr (differenceStatus sz v d s.sr.x s.sr)))) ∧
    (∀ (s1 s2 : State) (v : Word) (loc : Loc), readEa (.predec y) sz s = .ok v s1 → resolve (.predec x) sz s1 = .ok loc s2 →
      Changes (.addx x sz .predec y) sz s s2 loc (fun d => sumValue sz v d s.sr.x)
        (fun d f => sticky f (sumStatus sz v d f.x f)) ∧
      Changes (.subx x sz .predec y) sz s s2 loc (fun d => differenceValue sz v d s.sr.x)
        (fun d f => sticky f (differenceStatus sz v d f.x f)))) ∧
  InPlace .negx (fun sz x d => differenceValue sz d 0 x) (fun sz d f => sticky f (differenceStatus sz d 0 f.x f))

/-- 41 R202, R204, R212, R214: the additions and subtractions on an address register: 32 bits, no flags. -/
def Obligations.AddressArithmetic : Prop :=
  (∀ p ∈ [(Instr.addaW, Size.w), (Instr.addaL, Size.l)],
    ∀ (s s1 : State) (n : Reg) (src : Ea) (v : Word), readEa src p.2 s = .ok v s1 →
      exec (p.1 n src) s = .next (s1.setA n (BitVec.ofInt 32 ((s1.areg n).toNat + signedOf p.2 v)))) ∧
  (∀ p ∈ [(Instr.subaW, Size.w), (Instr.subaL, Size.l)],
    ∀ (s s1 : State) (n : Reg) (src : Ea) (v : Word), readEa src p.2 s = .ok v s1 →
      exec (p.1 n src) s = .next (s1.setA n (BitVec.ofInt 32 ((s1.areg n).toNat - signedOf p.2 v)))) ∧
  (∀ (s : State) (q n : Reg) (sz : Size), sz ≠ .b →
    let k : Int := if q.val = 0 then 8 else (q.val : Int)
    exec (.addq q sz (.an n)) s = .next (s.setA n (BitVec.ofInt 32 ((s.areg n).toNat + k))) ∧
    exec (.subq q sz (.an n)) s = .next (s.setA n (BitVec.ofInt 32 ((s.areg n).toNat - k))))

/-- 41 R217..R220: the comparisons set `N Z V C` from the difference and write nothing else. -/
def Obligations.CompareResults : Prop :=
  (∀ (s s1 : State) (n : Reg) (sz : Size) (src : Ea) (v : Word), (Instr.cmp n sz src).wf = true →
    readEa src sz s = .ok v s1 →
    exec (.cmp n sz src) s = .next (s1.setSr (compareStatus sz v (trunc sz (s.dreg n)) s.sr))) ∧
  (∀ p ∈ [(Instr.cmpaW, Size.w), (Instr.cmpaL, Size.l)],
    ∀ (s s1 : State) (n : Reg) (src : Ea) (v : Word), readEa src p.2 s = .ok v s1 →
      exec (p.1 n src) s = .next (s1.setSr (compareStatus .l (BitVec.ofInt 32 (signedOf p.2 v)) (s1.areg n) s.sr))) ∧
  (∀ (s s0 s1 : State) (sz : Size) (dst : Ea) (v d : Word), (Instr.cmpi sz dst).wf = true → fetchImm sz s = .ok v s0 →
    readEa dst sz s0 = .ok d s1 → exec (.cmpi sz dst) s = .next (s1.setSr (compareStatus sz v d s.sr))) ∧
  (∀ (s s0 s1 : State) (x y : Reg) (sz : Size) (v d : Word), readEa (.postinc y) sz s = .ok v s0 →
    readEa (.postinc x) sz s0 = .ok d s1 → exec (.cmpm x sz y) s = .next (s1.setSr (compareStatus sz v d s.sr)))

/-- 00_scope R16 after R15: after a comparison of `d` with `s` the condition tests say what their names say. -/
def Obligations.ConditionsAfterCompare : Prop :=
  ∀ (sz : Size) (s d : Word) (f : Status), s.toNat < span sz → d.toNat < span sz →
    let g := flagsCmp sz s d f
    g.holds .hi = decide (s.toNat < d.toNat) ∧ g.holds .ls = decide (d.toNat ≤ s.toNat) ∧
    g.holds .cc = decide (s.toNat ≤ d.toNat) ∧ g.holds .cs = decide (d.toNat < s.toNat) ∧
    g.holds .ne = decide (d ≠ s) ∧ g.holds .eq = decide (d = s) ∧
    g.holds .ge = decide (signedOf sz s ≤ signedOf sz d) ∧ g.holds .lt = decide (signedOf sz d < signedOf sz s) ∧
    g.holds .gt = decide (signedOf sz s < signedOf sz d) ∧ g.holds .le = decide (signedOf sz d ≤ signedOf sz s) ∧
    g.holds .vs = !inRange sz (signedOf sz d - signedOf sz s) ∧ g.holds .vc = inRange sz (signedOf sz d - signedOf sz s) ∧
    g.holds .t = true ∧ g.holds .f = false ∧ g.holds .mi = !g.holds .pl

/-- 41 R223, R226, 43 R268, 46 R305, R312, 47 R345: `CLR`, `EXT`, `SWAP`, `Scc`, `TST`, `TAS`. -/
def Obligations.ClearExtendAndTest : Prop :=
  (∀ (s s1 s2 : State) (sz : Size) (dst : Ea) (loc : Loc), (Instr.clr sz dst).wf = true → resolve dst sz s = .ok loc s1 →
    writeLoc loc sz 0 s1 = .ok () s2 →
    exec (.clr sz dst) s = .next (s2.setSr { s.sr with n := false, z := true, v := false, c := false })) ∧
  (∀ (s : State) (n : Reg),
    (let v := ofValue .w (signedOf .b (trunc .b (s.dreg n)))
     exec (.extW n) s = .next ((s.writeD n .w v).setSr (logicStatus .w v s.sr))) ∧
    (let v := ofValue .l (signedOf .w (trunc .w (s.dreg n)))
     exec (.extL n) s = .next ((s.setD n v).setSr (logicStatus .l v s.sr))) ∧
    (let v := BitVec.ofNat 32 ((s.dreg n).toNat % 0x10000 * 0x10000 + (s.dreg n).toNat / 0x10000)
     exec (.swap n) s = .next ((s.setD n v).setSr (logicStatus .l v s.sr)))) ∧
  (∀ (s s1 s2 : State) (c : Cond) (dst : Ea) (loc : Loc), (Instr.scc c dst).wf = true → resolve dst .b s = .ok loc s1 →
    writeLoc loc .b (if s.sr.holds c then 0xFF else 0) s1 = .ok () s2 → exec (.scc c dst) s = .next s2) ∧
  (∀ (s s1 : State) (sz : Size) (dst : Ea) (d : Word), (Instr.tst sz dst).wf = true → readEa dst sz s = .ok d s1 →
    exec (.tst sz dst) s = .next (s1.setSr (logicStatus sz d s.sr))) ∧
  (∀ (s s1 s2 : State) (dst : Ea) (loc : Loc), (Instr.tas dst).wf = true → resolve dst .b s = .ok loc s1 →
    let d := (readLocFrom s1 loc .b).1
    writeLoc loc .b (BitVec.ofNat 32 (128 + d.toNat % 128)) ((readLocFrom s1 loc .b).2.setSr (logicStatus .b d s.sr))
      = .ok () s2 → exec (.tas dst) s = .next s2)

/-- 41 R227..R230: products are exact; a quotient that fits is written below its remainder, one that does not leaves the
destination and sets `V`, with `N` and `Z` some values; the signed remainder has the dividend's sign. -/
def Obligations.MultiplyAndDivide : Prop :=
  ∀ (s s1 : State) (n : Reg) (src : Ea) (v : Word), (Instr.mulu n src).wf = true → readEa src .w s = .ok v s1 →
    (let r := BitVec.ofNat 32 (v.toNat * ((s.dreg n).toNat % 0x10000))
     exec (.mulu n src) s = .next ((s1.setD n r).setSr (logicStatus .l r s.sr))) ∧
    (let r := BitVec.ofInt 32 (signedOf .w v * signedOf .w (trunc .w (s.dreg n)))
     exec (.muls n src) s = .next ((s1.setD n r).setSr (logicStatus .l r s.sr))) ∧
    (∀ q rem : Nat, (s.dreg n).toNat = q * v.toNat + rem → rem < v.toNat →
      (q < 0x10000 → exec (.divu n src) s = .next ((s1.setD n (BitVec.ofNat 32 (rem * 0x10000 + q))).setSr
        { s.sr with n := decide (0x8000 ≤ q), z := decide (q = 0), v := false, c := false })) ∧
      (0x10000 ≤ q → ∃ f z : Bool, exec (.divu n src) s = .next
        ({ s1 with draws := s1.draws + 2 }.setSr { s.sr with n := f, z := z, v := true, c := false }))) ∧
    (∀ q rem : Int, signedOf .l (s.dreg n) = q * signedOf .w v + rem → rem.natAbs < (signedOf .w v).natAbs →
      (rem = 0 ∨ (0 < rem ↔ 0 < signedOf .l (s.dreg n))) →
      (-0x8000 ≤ q ∧ q < 0x8000 → exec (.divs n src) s = .next
        ((s1.setD n (BitVec.ofInt 32 (rem * 0x10000 + q % 0x10000))).setSr
          { s.sr with n := decide (q < 0), z := decide (q = 0), v := false, c := false })) ∧
      (¬ (-0x8000 ≤ q ∧ q < 0x8000) → ∃ f z : Bool, exec (.divs n src) s = .next
        ({ s1 with draws := s1.draws + 2 }.setSr { s.sr with n := f, z := z, v := true, c := false })))

/-! # Logic, shifts, bits, decimals -/

/-- 42 R240..R252: `AND`, `OR`, `EOR` in every form, and `NOT`. -/
def Obligations.LogicResults : Prop :=
  EaToRegister .andEaDn (fun _ s d => s &&& d) (fun sz s d => logicStatus sz (s &&& d)) ∧
  EaToRegister .orEaDn (fun _ s d => s ||| d) (fun sz s d => logicStatus sz (s ||| d)) ∧
  RegisterToEa .andDnEa (fun _ s d => s &&& d) (fun sz s d => logicStatus sz (s &&& d)) ∧
  RegisterToEa .orDnEa (fun _ s d => s ||| d) (fun sz s d => logicStatus sz (s ||| d)) ∧
  RegisterToEa .eor (fun _ s d => s ^^^ d) (fun sz s d => logicStatus sz (s ^^^ d)) ∧
  ImmediateToEa .andi (fun _ s d => s &&& d) (fun sz s d => logicStatus sz (s &&& d)) ∧
  ImmediateToEa .ori (fun _ s d => s ||| d) (fun sz s d => logicStatus sz (s ||| d)) ∧
  ImmediateToEa .eori (fun _ s d => s ^^^ d) (fun sz s d => logicStatus sz (s ^^^ d)) ∧
  InPlace .notOp (fun sz _ d => BitVec.ofNat 32 (span sz - 1 - d.toNat))
    (fun sz d => logicStatus sz (BitVec.ofNat 32 (span sz - 1 - d.toNat)))

/-- 43 R260..R267, R269: every shift and rotate, of a register by every count and of a word of memory by one. -/
def Obligations.ShiftResults : Prop :=
  (ShiftsRegister .asrReg .asr ∧ ShiftsRegister .aslReg .asl ∧ ShiftsRegister .lsrReg .lsr ∧ ShiftsRegister .lslReg .lsl ∧
    ShiftsRegister .roxrReg .roxr ∧ ShiftsRegister .roxlReg .roxl ∧ ShiftsRegister .rorReg .ror ∧
    ShiftsRegister .rolReg .rol) ∧
  (ShiftsMemory .asrMem .asr ∧ ShiftsMemory .aslMem .asl ∧ ShiftsMemory .lsrMem .lsr ∧ ShiftsMemory .lslMem .lsl ∧
    ShiftsMemory .roxrMem .roxr ∧ ShiftsMemory .roxlMem .roxl ∧ ShiftsMemory .rorMem .ror ∧ ShiftsMemory .rolMem .rol)

/-- 44 R280..R284: the bit instructions, static and dynamic. -/
def Obligations.BitResults : Prop :=
  (∀ (s s1 : State) (dst : Ea) (d : Word), (Instr.btstImm dst).wf = true → readEa dst (bitSize dst) (after1 s) = .ok d s1 →
    exec (.btstImm dst) s = .next (s1.setSr
      { s.sr with z := !d.toNat.testBit ((word1 s).toNat % 256 % bitCount (bitSize dst)) })) ∧
  (∀ (s s1 : State) (n : Reg) (dst : Ea) (d : Word), (Instr.btstReg n dst).wf = true →
    readEa dst (bitSize dst) s = .ok d s1 →
    exec (.btstReg n dst) s = .next (s1.setSr
      { s.sr with z := !d.toNat.testBit ((s.dreg n).toNat % bitCount (bitSize dst)) })) ∧
  BitOperation .bchgImm .bchgReg (fun b => !b) ∧ BitOperation .bclrImm .bclrReg (fun _ => false) ∧
  BitOperation .bsetImm .bsetReg (fun _ => true)

/-- 45 R289..R292: `ABCD`, `SBCD`, `NBCD` on decimals, and on operands that are none; the operands are two registers, or the
byte at `-(Ay)` read first and then the byte at `-(Ax)`, `A7` stepping by 2. -/
def Obligations.DecimalResults : Prop :=
  (∀ (s s1 : State) (x y : Reg) (m : PairMode) (loc : Loc) (p q : Nat), p < 100 → q < 100 →
    pairOperands .b x m y s = .ok (packed p, loc, packed q) s1 →
    DecimalResult (.abcd x m y) s s1 loc (q + p + bitNat s.sr.x) ∧
    DecimalResult (.sbcd x m y) s s1 loc ((q : Int) - p - bitNat s.sr.x)) ∧
  (∀ (s s1 : State) (x y : Reg) (m : PairMode) (loc : Loc) (v d : Word), (notDecimal v ∨ notDecimal d) →
    pairOperands .b x m y s = .ok (v, loc, d) s1 →
    DecimalOpen (.abcd x m y) s s1 loc ∧ DecimalOpen (.sbcd x m y) s s1 loc) ∧
  (∀ (s s1 : State) (dst : Ea) (loc : Loc) (q : Nat), (Instr.nbcd dst).wf = true → q < 100 →
    resolve dst .b s = .ok loc s1 → (readLocFrom s1 loc .b).1 = packed q →
    DecimalResult (.nbcd dst) s (readLocFrom s1 loc .b).2 loc (0 - (q : Int) - bitNat s.sr.x)) ∧
  (∀ (s s1 : State) (dst : Ea) (loc : Loc), (Instr.nbcd dst).wf = true → resolve dst .b s = .ok loc s1 →
    notDecimal (readLocFrom s1 loc .b).1 → DecimalOpen (.nbcd dst) s (readLocFrom s1 loc .b).2 loc) ∧
  (∀ (s : State) (x y : Reg),
    pairOperands .b x .regs y s = .ok (trunc .b (s.dreg y), .dreg x, trunc .b (s.dreg x)) s) ∧
  (∀ (s s1 s2 : State) (x y : Reg) (v : Word) (loc : Loc), readEa (.predec y) .b s = .ok v s1 →
    resolve (.predec x) .b s1 = .ok loc s2 →
    pairOperands .b x .predec y s = .ok (v, loc, (readLocFrom s2 loc .b).1) (readLocFrom s2 loc .b).2) ∧
  (∀ (s s1 : State) (x y : Reg) (v d : Word),
    let a := s.areg y - (if y = 7 then 2 else 1)
    let b := s1.areg x - (if x = 7 then 2 else 1)
    memRead (s.setA y a) a .b = (v, s1) → (memRead (s1.setA x b) b .b).1 = d →
    pairOperands .b x .predec y s = .ok (v, .mem b, d) (memRead (s1.setA x b) b .b).2)

/-! # Program control -/

/-- 46 R300, R301, R302, R304, 30_encoding R146: branches, by displacement form. -/
def Obligations.BranchResults : Prop :=
  (∀ (s : State) (d : Byte), exec (.bra d) s = .next ((branchWords d s).2.setPc (s.pc + (branchWords d s).1))) ∧
  (∀ (s : State) (c : Cond) (d : Byte), exec (.bcc c d) s = .next
    (if s.sr.holds c then (branchWords d s).2.setPc (s.pc + (branchWords d s).1) else (branchWords d s).2)) ∧
  (∀ (s t : State) (d : Byte),
    memWrite ((branchWords d s).2.setSp (s.sp - 4)) (s.sp - 4) .l (branchWords d s).2.pc = .ok t →
    exec (.bsr d) s = .next (t.setPc (s.pc + (branchWords d s).1))) ∧
  (∀ (s : State) (c : Cond) (n : Reg),
    (s.sr.holds c = true → exec (.dbcc c n) s = .next (after1 s)) ∧
    (s.sr.holds c = false → (s.dreg n).toNat % 0x10000 = 0 →
      exec (.dbcc c n) s = .next ((after1 s).writeD n .w 0xFFFF)) ∧
    (s.sr.holds c = false → (s.dreg n).toNat % 0x10000 ≠ 0 → exec (.dbcc c n) s = .next
      (((after1 s).writeD n .w (BitVec.ofNat 32 ((s.dreg n).toNat % 0x10000 - 1))).setPc
        (s.pc + BitVec.ofInt 32 (word1 s).toInt))))

/-- 46 R306..R310, 47 R341, R342: `JMP`, `JSR`, `RTS`, `RTR`, `NOP`, and `TRAPV` and `CHK` that do not trap. -/
def Obligations.JumpsAndReturns : Prop :=
  (∀ (s s1 : State) (dst : Ea) (a : Word), (Instr.jmp dst).wf = true → resolve dst .l s = .ok (.mem a) s1 →
    exec (.jmp dst) s = .next (s1.setPc a) ∧
    ∀ t : State, memWrite (s1.setSp (s.sp - 4)) (s.sp - 4) .l s1.pc = .ok t → exec (.jsr dst) s = .next (t.setPc a)) ∧
  (∀ s : State, exec .rts s = .next (((memRead s s.sp .l).2.setSp (s.sp + 4)).setPc (memRead s s.sp .l).1)) ∧
  (∀ (s s1 s2 : State) (w p : Word), memRead s s.sp .w = (w, s1) → memRead s1 (s.sp + 2) .l = (p, s2) →
    exec .rtr s = .next (((s2.setSp (s.sp + 6)).setSr { s.sr with
      x := w.getLsbD 4, n := w.getLsbD 3, z := w.getLsbD 2, v := w.getLsbD 1, c := w.getLsbD 0 }).setPc p)) ∧
  (∀ s : State, exec .nop s = .next s) ∧
  (∀ s : State, s.sr.v = false → exec .trapv s = .next s) ∧
  (∀ (s s1 : State) (n : Reg) (src : Ea) (b : Word), (Instr.chk n src).wf = true → readEa src .w s = .ok b s1 →
    0 ≤ signedOf .w (trunc .w (s.dreg n)) → signedOf .w (trunc .w (s.dreg n)) ≤ signedOf .w b →
    ∃ f z v c : Bool, exec (.chk n src) s = .next
      ({ s1 with draws := s1.draws + 4 }.setSr { s.sr with n := f, z := z, v := v, c := c }))

/-! # System control -/

/-- 42 R243, R247, R251, 47 R330..R332, R336..R338: the moves and the immediate logic on the status word, the privileged
ones in supervisor mode. -/
def Obligations.StatusMoves : Prop :=
  (∀ p ∈ [(Instr.andiToCcr, Instr.andiToSr, and), (Instr.oriToCcr, Instr.oriToSr, or), (Instr.eoriToCcr, Instr.eoriToSr, xor)],
    ∀ s : State,
      let w := word1 s
      let low (f : Status) : Status := { f with
        x := p.2.2 s.sr.x (w.getLsbD 4), n := p.2.2 s.sr.n (w.getLsbD 3),
        z := p.2.2 s.sr.z (w.getLsbD 2), v := p.2.2 s.sr.v (w.getLsbD 1), c := p.2.2 s.sr.c (w.getLsbD 0) }
      exec p.1 s = .next ((after1 s).setSr (low s.sr)) ∧
      (s.sr.s = true → ∃ i : BitVec 3,
        (∀ j : Nat, j < 3 → i.getLsbD j = p.2.2 (s.sr.i.getLsbD j) (w.getLsbD (8 + j))) ∧
        exec p.2.1 s = .next ((after1 s).setSr (low { s.sr with
          t := p.2.2 s.sr.t (w.getLsbD 15), s := p.2.2 s.sr.s (w.getLsbD 13), m := p.2.2 s.sr.m (w.getLsbD 12), i := i })))) ∧
  (∀ (s s1 : State) (src : Ea) (v : Word), (Instr.moveToCcr src).wf = true → readEa src .w s = .ok v s1 →
    exec (.moveToCcr src) s = .next (s1.setSr { s.sr with
      x := v.getLsbD 4, n := v.getLsbD 3, z := v.getLsbD 2, v := v.getLsbD 1, c := v.getLsbD 0 }) ∧
    (s.sr.s = true → exec (.moveToSr src) s = .next (s1.setSr (Status.ofWord (v.setWidth 16))))) ∧
  (∀ (s s1 s2 : State) (dst : Ea) (loc : Loc), (Instr.moveFromSr dst).wf = true → resolve dst .w s = .ok loc s1 →
    writeLoc loc .w (BitVec.ofNat 32 s.sr.toWord.toNat) s1 = .ok () s2 → exec (.moveFromSr dst) s = .next s2)

/-- 47 R333, R334, R346, R347, 10_state R34: the moves of `USP`, `STOP` and `RESET` in supervisor mode. That the registers, `SR`,
RAM and the devices are unchanged after the fault of `RESET` is the model's choice (log 8): R347 and R420 give the fault alone. -/
def Obligations.SupervisorOperations : Prop :=
  ∀ (s : State) (n : Reg), s.sr.s = true →
    exec (.moveAnUsp n) s = .next { s with usp := s.areg n } ∧
    exec (.moveUspAn n) s = .next (s.setA n s.usp) ∧
    exec .stop s = .next { after1 s with sr := Status.ofWord (word1 s), stopped := true } ∧
    ∃ t : State, exec .reset s = .next t ∧ t.fault = some .resetInstruction ∧ t.d = s.d ∧ t.a = s.a ∧ t.usp = s.usp ∧
      t.ssp = s.ssp ∧ t.isp = s.isp ∧ t.sr = s.sr ∧ t.ram = s.ram ∧ t.psg = s.psg ∧ t.mfp = s.mfp ∧ t.dac = s.dac

/-! # Devices, clocks, reset -/

/-- 61 R481, R490, R491: `irqCause()` answers the highest pending and unmasked channel and clears its bit alone, or the
spurious vector; `SetPending` needs the enable bit; a write of the enable registers clears what it disables. -/
def Obligations.MfpInterruptController : Prop :=
  (∀ (m : Mfp) (ch : Nat), ch < 16 → (m.ipr &&& m.imr).getLsbD ch = true →
    (∀ j, ch < j → (m.ipr &&& m.imr).getLsbD j = false) →
    m.irqCause.2.toNat = m.vr.toNat / 16 * 16 + ch ∧ m.irqCause.1 = { m with ipr := m.irqCause.1.ipr } ∧
    ∀ j, m.irqCause.1.ipr.getLsbD j = (m.ipr.getLsbD j && decide (j ≠ ch))) ∧
  (∀ m : Mfp, m.ipr &&& m.imr = 0 → m.irqCause = (m, 0x18) ∧ m.line = false) ∧
  (∀ m : Mfp, m.ipr &&& m.imr ≠ 0 → m.line = true) ∧
  (∀ (m : Mfp) (ch j : Nat), ch < 16 → j < 16 →
    (m.setPending ch).ipr.getLsbD j = (m.ipr.getLsbD j || (decide (j = ch) && m.ier.getLsbD ch))) ∧
  (∀ (s : State) (v : Word), ∃ t u : State,
    memWrite s 0x00FFFA07 .b v = .ok t ∧ t = { s with mfp := { s.mfp with ier := t.mfp.ier, ipr := s.mfp.ipr &&& t.mfp.ier } } ∧
    t.mfp.ier.toNat = v.toNat % 256 * 256 + s.mfp.ier.toNat % 256 ∧
    memWrite s 0x00FFFA0B .b v = .ok u ∧ u = { s with mfp := { s.mfp with ipr := u.mfp.ipr } } ∧
    u.mfp.ipr = s.mfp.ipr &&& BitVec.ofNat 16 (v.toNat % 256 * 256 + 255))

/-- 61 R471, R475, R476: a timer started in a delay mode with counter and reload value `n` underflows at every
`prescale * n`-th MFP clock and at no other, `n = 0` counting as 256. -/
def Obligations.TimerPeriod : Prop :=
  ∀ (t : Timer) (code : BitVec 4) (n : Byte) (k : Nat), t.control = 0 → 0 < code.toNat → code.toNat < 8 →
    let p := [0, 4, 10, 16, 50, 64, 100, 200].getD code.toNat 0
    let q := if n = 0 then 256 else n.toNat
    (timerRun (k + 1) ((t.writeData n).setControl code)).2 = decide (p * q ∣ k + 1)

/-- 64 R600..R602: of `n` calls of a fresh clock manager the number of ticks differs from `n * target / base` by less than
2, and the first tick falls on call `base / target`. -/
def Obligations.ClockNeverDrifts : Prop :=
  ∀ (b t n : Nat), 0 < t → t ≤ b →
    (((ticks n (ClockManager.cold b t)).2 * b : Int) - n * t < 2 * b ∧ (n * t : Int) - (ticks n (ClockManager.cold b t)).2 * b < 2 * b) ∧
    (n < b / t → (ticks n (ClockManager.cold b t)).2 = 0) ∧ (ticks (b / t) (ClockManager.cold b t)).2 = 1

/-- 63 R562, R573, R575, 20_memory R95: a bus read that covers the microwire mask turns it left by one and takes one cycle,
if any is left, before its bytes are returned; any other read changes nothing. So a transaction lasts 16 reads of the mask,
after which it has its written value again, and later reads change nothing. With eleven mask bits in a row the data of
register 3 sets the main volume. -/
def Obligations.MicrowireTransaction : Prop :=
  (∀ (s : State) (a : Word) (sz : Size),
    (coversMask a sz → 0 < s.dac.mwCycles → (memRead s a sz).2 =
      { s with dac := { s.dac with mwCycles := s.dac.mwCycles - 1, mwMask := turned s.dac.mwMask } }) ∧
    (¬ (coversMask a sz ∧ 0 < s.dac.mwCycles) → (memRead s a sz).2 = s)) ∧
  (∀ s : State,
    let m := (if 0 < s.dac.mwCycles then turned s.dac.mwMask else s.dac.mwMask).toNat
    (memRead s 0x00FF8924 .w).1.toNat = m ∧ (memRead s 0x00FF8924 .b).1.toNat = m / 0x100 ∧
    (memRead s 0x00FF8925 .b).1.toNat = m % 0x100 ∧
    (memRead s 0x00FF8922 .l).1.toNat = s.dac.mwData.toNat * 0x10000 + m ∧
    (memRead s 0x00FF8922 .w).1.toNat = s.dac.mwData.toNat) ∧
  (∀ (s : State) (k : Nat), s.dac.mwCycles = 16 →
    maskReads k s = { s with dac := { s.dac with mwCycles := 16 - k, mwMask := s.dac.mwMask.rotateLeft (min k 16) } } ∧
    (16 ≤ k → maskReads k s = { s with dac := { s.dac with mwCycles := 0 } } ∧
      (memRead (maskReads (k - 1) s) 0x00FF8924 .w).1.toNat = s.dac.mwMask.toNat)) ∧
  (∀ (s : State) (x k : Nat), k ≤ 5 → s.dac.mwMask = BitVec.ofNat 16 (0x07FF * 2 ^ k) → x < 64 → ∃ t : State,
    memWrite s 0x00FF8922 .w (BitVec.ofNat 32 ((0x4C0 + x) * 2 ^ k)) = .ok t ∧ t.dac.mwCycles = 16 ∧
    t.dac.mainVolume.toNat = min 64 (x * 64 / 40) ∧ t.dac.mwData.toNat = (0x4C0 + x) * 2 ^ k ∧ t.dac.mwMask = s.dac.mwMask)

/-- 63 R580, R582, 61 R492: a buffer of `n` advances that starts at its begin address ends after exactly `n` thresholds of
DMA clocks: the address is the begin address again, the engine goes on only with the loop bit, and the MFP was told once. -/
def Obligations.DmaBufferEnds : Prop :=
  ∀ (s : State) (n : Nat), s.dac.dmaActive = true → s.dac.dmaRateCounter = 0 → s.dac.dmaCurrent = s.dac.dmaBegin → 0 < n →
    s.dac.dmaBegin.toNat + n * (if s.dac.dmaMono then 1 else 2) = s.dac.dmaEnd.toNat →
    let period := 2 ^ s.dac.dmaDivider.toNat * (if s.dac.dmaMono then 2 else 1)
    (∀ k, k < n * period → (dmaRun k s).mfp = s.mfp ∧ (dmaRun k s).dac.dmaActive = true ∧
      (dmaRun k s).dac.dmaCurrent.toNat = s.dac.dmaBegin.toNat + k / period * (if s.dac.dmaMono then 1 else 2)) ∧
    (dmaRun (n * period) s).dac = { s.dac with dmaActive := s.dac.dmaLoop } ∧
    (dmaRun (n * period) s).mfp.timerA.eventFlag = true ∧
    (∀ j, j < 16 → (dmaRun (n * period) s).mfp.ipr.getLsbD j =
      (s.mfp.ipr.getLsbD j || (decide (j = 15) && s.mfp.ier.getLsbD 15)))

/-- 62 R521, R524: selecting a register and writing it stores the implemented bits in it alone, and it then reads back;
register 13 also restarts the envelope. -/
def Obligations.PsgRegisterWrites : Prop :=
  ∀ (s : State) (r v : Word),
    let sel : BitVec 4 := r.setWidth 4
    let mask := if sel.toNat ∈ [1, 3, 5, 13] then 16 else if sel.toNat ∈ [6, 8, 9, 10] then 32 else 256
    ∃ t u : State, memWrite s 0x00FF8800 .b r = .ok t ∧ memWrite t 0x00FF8802 .b v = .ok u ∧
      (peek u 0x00FF8800).toNat = v.toNat % mask ∧ u.psg.sel = sel ∧
      (∀ j : BitVec 4, j ≠ sel → u.psg.reg j = s.psg.reg j) ∧ u = { s with psg := u.psg } ∧
      u.psg.tcnt = s.psg.tcnt ∧ u.psg.tout = s.psg.tout ∧ u.psg.ncnt = s.psg.ncnt ∧ u.psg.lfsr = s.psg.lfsr ∧
      u.psg.div8 = s.psg.div8 ∧ u.psg.sample = s.psg.sample ∧ u.psg.ready = s.psg.ready ∧
      (if sel = 13 then u.psg.estep = 0 ∧ u.psg.ecnt = 0 ∧ u.psg.ehold = false ∧ u.psg.eattack = v.getLsbD 2
        else u.psg.estep = s.psg.estep ∧ u.psg.ecnt = s.psg.ecnt ∧ u.psg.ehold = s.psg.ehold ∧ u.psg.eattack = s.psg.eattack)

/-- 62 R530, R531, R533: the generator steps once in 8 PSG clocks; from a counter of 0, the eighth clock gives a sample and
the seven before it change nothing but the counter; with legal parameters a sample is 0 to 32766. -/
def Obligations.PsgSamples : Prop :=
  ∀ (p : Params) (g : Psg), p.legal = true → g.div8 = 0 →
    (∀ k, k < 8 → psgRun p.levelTable k g = { g with div8 := BitVec.ofNat 3 k }) ∧
    (psgRun p.levelTable 8 g).ready = true ∧ (psgRun p.levelTable 8 g).div8 = 0 ∧
    (psgRun p.levelTable 8 g).sample.toNat ≤ 32766 ∧ (psgRun p.levelTable 8 g).regs = g.regs

/-- 10_state R38..R49, 64 R602: the invariant of the machine (its docstring names each part) survives every base cycle. -/
def Obligations.InvariantIsKept : Prop := ∀ s t : State, s.Inv → step s = .next t → t.Inv

/-- The same for the state after reset. -/
def Obligations.InvariantHoldsAtReset : Prop := State.reset.Inv

/-- 10_state R51..R57, 70 R650: construction at the spec's reset values, with any legal parameters and any values of the
registers that R52 leaves unspecified, answers a state with the values the spec gives; at any other legal reset values it
answers the state that has those, within the invariant; `State.reset` is the one with the default parameters and the
registers of log 1 (that choice is the model's, and so is which reset values are legal: log 30). -/
def Obligations.ResetValuesOfTheSpec : Prop :=
  (∀ (p : Params) (d : Vector Word 8) (a : Vector Word 7) (usp ssp : Word), p.legal = true → p.vbrReset = 0 → p.ramInit = 0 →
    ∃ s : State, construct p { ResetValues.standard p with d := d, a := a, usp := usp, ssp := ssp } = .next s ∧
      s.sr.toWord = 0x2700 ∧ s.vbr = 0 ∧ s.isp = 0 ∧ s.pc = 0 ∧ s.stopped = false ∧ s.fault = none ∧ s.d = d ∧ s.a = a ∧
      s.usp = usp ∧ s.ssp = ssp ∧ (∀ x : Word, busAddr x < Config.ramSize → peek s x = 0) ∧ s.psg = Psg.cold ∧
      s.mfp = Mfp.cold ∧ s.dac = Dac.cold ∧ s.dac.mainVolume = 64 ∧ s.psg.lfsr = 1 ∧
      s.psgClock.spacing = 16 ∧ s.mfpClock.spacing = 13 ∧ s.dacClock.timeSinceLastCycle = 0) ∧
  (∀ (p : Params) (r : ResetValues), p.legal = true → r.legal p = true → ∃ s : State, construct p r = .next s ∧ s.Inv ∧
    s.params = p ∧ s.vbr = p.vbrReset ∧ s.d = r.d ∧ s.a = r.a ∧ s.usp = r.usp ∧ s.ssp = r.ssp ∧ s.sr = r.sr ∧
    s.stopped = r.stopped ∧ s.fault = r.fault ∧ s.psg = r.psg ∧ s.mfp = r.mfp ∧ (r.dac.mwCycles = 0 → s.dac = r.dac) ∧
    s.psgClock = ClockManager.start 32000000 2000000 r.psgClock ∧ s.mfpClock = ClockManager.start 32000000 2457600 r.mfpClock ∧
    s.dacClock = ClockManager.start 32000000 p.dacClockHz r.dacClock ∧
    (busAddr p.vbrReset + 8 ≤ Config.ramSize →
      s.isp.toNat = p.ramInit.toNat * 0x1010101 ∧ s.pc = s.isp ∧ s.dac = r.dac)) ∧
  construct Params.standard (ResetValues.standard Params.standard) = .next State.reset

/-- 62 R530..R533: the clock on which the divider wraps steps the tone, noise and envelope generators once by their periods
(a period of 0 counting as 1), and the sample is the sum of the level table's entries for the three channels as the new
state gates them; nothing else of the PSG changes. -/
def Obligations.PsgGeneratorStep : Prop :=
  ∀ (p : Params) (g : Psg), p.legal = true → g.div8 = 7 →
    let h := (g.clockCycle p.levelTable).1
    (g.clockCycle p.levelTable).2 = true ∧ h.div8 = 0 ∧ h.regs = g.regs ∧ h.sel = g.sel ∧ h.ready = true ∧
    (∀ k : Fin 3,
      let c := g.tcnt[k].toNat + 1
      if max (psgNat g (2 * k.val + 1) % 16 * 256 + psgNat g (2 * k.val)) 1 ≤ c then h.tcnt[k] = 0 ∧ h.tout[k] = !g.tout[k]
      else h.tcnt[k].toNat = c ∧ h.tout[k] = g.tout[k]) ∧
    (let c := g.ncnt.toNat + 1
     if 2 * max (psgNat g 6 % 32) 1 ≤ c then
       h.ncnt = 0 ∧ h.lfsr.toNat = g.lfsr.toNat / 2 + (g.lfsr.toNat + g.lfsr.toNat / 8) % 2 * 0x10000
     else h.ncnt.toNat = c ∧ h.lfsr = g.lfsr) ∧
    (let c := g.ecnt.toNat + 1
     if g.ehold then h.ecnt = g.ecnt ∧ h.estep = g.estep ∧ h.eattack = g.eattack ∧ h.ehold = true
     else if max (psgNat g 12 * 256 + psgNat g 11) 1 ≤ c then h.ecnt = 0 ∧ EnvelopeStepped g h
     else h.ecnt.toNat = c ∧ h.estep = g.estep ∧ h.eattack = g.eattack ∧ h.ehold = false) ∧
    h.sample.toNat = p.levelTable.getD (heard h 0) 0 + p.levelTable.getD (heard h 1) 0 + p.levelTable.getD (heard h 2) 0
end

