-- ==== Sys2Proof/Laws/Memory.lean ====
section
/-! SUPPORT. RAM: a byte reads back what was written, every other byte is left alone, and every operation keeps the
canonical form. -/

namespace Sys2Proof.Machine

/-! ## Lists of cells -/

theorem lookupCell_drop (dflt : Byte) (a b : Nat) (l : List Host.Cell) :
    lookupCell dflt b (dropCell a l) = if a = b then dflt else lookupCell dflt b l := by
  induction l with
  | nil => simp [dropCell, lookupCell]
  | cons c rest ih =>
    simp only [dropCell, lookupCell]
    by_cases hc : c.1 = a
    · simp only [hc, if_true, ih]
      by_cases hab : a = b <;> simp [hab]
    · simp only [hc, if_false, lookupCell, ih]
      by_cases hcb : c.1 = b
      · have : a ≠ b := fun e => hc (hcb.trans e.symm)
        simp [hcb, this]
      · simp [hcb]

theorem lookupCell_put (dflt : Byte) (a b : Nat) (v : Byte) (l : List Host.Cell) :
    lookupCell dflt b (putCell a v l) = if a = b then v else lookupCell dflt b l := by
  induction l with
  | nil => simp [putCell, lookupCell]
  | cons c rest ih =>
    simp only [putCell]
    split
    · simp [lookupCell]
    · split
      · rename_i hlt hc
        simp only [lookupCell, hc]
        by_cases hab : a = b <;> simp [hab]
      · rename_i hlt hc
        simp only [lookupCell, ih]
        by_cases hcb : c.1 = b
        · have : a ≠ b := fun e => hc (hcb.trans e.symm)
          simp [hcb, this]
        · simp [hcb]

theorem cellsFrom_mono (dflt : Byte) {lo lo' : Nat} (h : lo' ≤ lo) (l : List Host.Cell) :
    cellsFrom dflt lo l = true → cellsFrom dflt lo' l = true := by
  cases l with
  | nil => simp [cellsFrom]
  | cons c rest =>
    simp only [cellsFrom, Bool.and_eq_true, decide_eq_true_eq]
    rintro ⟨⟨⟨h1, h2⟩, h3⟩, h4⟩
    exact ⟨⟨⟨by omega, h2⟩, h3⟩, h4⟩

theorem cellsFrom_drop (dflt : Byte) (a : Nat) (l : List Host.Cell) (lo : Nat) :
    cellsFrom dflt lo l = true → cellsFrom dflt lo (dropCell a l) = true := by
  induction l generalizing lo with
  | nil => simp [dropCell]
  | cons c rest ih =>
    simp only [cellsFrom, dropCell, Bool.and_eq_true, decide_eq_true_eq]
    rintro ⟨⟨⟨h1, h2⟩, h3⟩, h4⟩
    split
    · exact ih lo (cellsFrom_mono dflt (by omega) rest h4)
    · simp only [cellsFrom, Bool.and_eq_true, decide_eq_true_eq]
      exact ⟨⟨⟨h1, h2⟩, h3⟩, ih _ h4⟩

theorem cellsFrom_put (dflt : Byte) (a : Nat) (v : Byte) (ha : a < Config.ramSize) (hv : v ≠ dflt)
    (l : List Host.Cell) (lo : Nat) (hlo : lo ≤ a) :
    cellsFrom dflt lo l = true → cellsFrom dflt lo (putCell a v l) = true := by
  induction l generalizing lo with
  | nil => simp [putCell, cellsFrom, hlo, ha, hv]
  | cons c rest ih =>
    intro h
    have h' := h
    simp only [cellsFrom, Bool.and_eq_true, decide_eq_true_eq] at h'
    obtain ⟨⟨⟨h1, h2⟩, h3⟩, h4⟩ := h'
    simp only [putCell]
    split
    · rename_i hlt
      simp only [cellsFrom, Bool.and_eq_true, decide_eq_true_eq]
      exact ⟨⟨⟨hlo, ha⟩, hv⟩, ⟨⟨⟨by omega, h2⟩, h3⟩, h4⟩⟩
    · split
      · rename_i hlt hc
        simp only [cellsFrom, Bool.and_eq_true, decide_eq_true_eq]
        exact ⟨⟨⟨hlo, ha⟩, hv⟩, by rw [← hc]; exact h4⟩
      · rename_i hlt hc
        simp only [cellsFrom, Bool.and_eq_true, decide_eq_true_eq]
        exact ⟨⟨⟨h1, h2⟩, h3⟩, ih _ (by omega) h4⟩

/-! ## Bytes -/

/-- A byte reads what was written there; every other byte reads as before. -/
theorem Memory.read_write (m : Memory) (a b : Nat) (v : Byte) :
    (m.write a v).read b = if a = b then v else m.read b := by
  unfold Memory.write Memory.read
  split
  · rename_i h
    simp only [lookupCell_drop, h]
  · simp only [lookupCell_put]

@[simp] theorem Memory.unlisted_write (m : Memory) (a : Nat) (v : Byte) : (m.write a v).unlisted = m.unlisted := by
  unfold Memory.write; split <;> rfl

theorem Memory.wf_write (m : Memory) (a : Nat) (v : Byte) (ha : a < Config.ramSize) (h : m.wf = true) :
    (m.write a v).wf = true := by
  unfold Memory.wf at h ⊢
  simp only [Memory.unlisted_write]
  unfold Memory.write
  split
  · exact cellsFrom_drop _ _ _ _ h
  · rename_i hv
    exact cellsFrom_put _ _ _ ha hv _ _ (Nat.zero_le _) h

theorem Memory.read_writeAt (m : Memory) (a b : Nat) (v : Byte) :
    (m.writeAt a v).read b = if a = b ∧ a < Config.ramSize then v else m.read b := by
  unfold Memory.writeAt
  split
  · rename_i h; simp [Memory.read_write, h]
  · rename_i h; simp [h]

@[simp] theorem Memory.unlisted_writeAt (m : Memory) (a : Nat) (v : Byte) : (m.writeAt a v).unlisted = m.unlisted := by
  unfold Memory.writeAt; split <;> simp

theorem Memory.wf_writeAt (m : Memory) (a : Nat) (v : Byte) (h : m.wf = true) : (m.writeAt a v).wf = true := by
  unfold Memory.writeAt
  split
  · rename_i ha; exact Memory.wf_write m a v ha h
  · exact h

/-! ## Accesses -/

/-- What a store of bytes `k, ..., k+n-1` leaves in each byte. -/
theorem Memory.read_storeBytes (m : Memory) (o : Nat) (sz : Size) (v : Word) (k n b : Nat) :
    (m.storeBytes o sz v k n).read b =
      if o + k ≤ b ∧ b < o + k + n ∧ b < Config.ramSize then byteOf sz v (b - o) else m.read b := by
  induction n generalizing m k with
  | zero => simp only [Memory.storeBytes]; split <;> [omega; rfl]
  | succ n ih =>
    simp only [Memory.storeBytes, ih, Memory.read_writeAt]
    by_cases h1 : o + k = b
    · subst h1
      simp
    · by_cases h2 : o + (k + 1) ≤ b ∧ b < o + (k + 1) + n ∧ b < Config.ramSize
      · rw [if_pos h2, if_pos (by omega)]
      · rw [if_neg h2, if_neg (by omega), if_neg (by omega)]

theorem Memory.unlisted_storeBytes (m : Memory) (o : Nat) (sz : Size) (v : Word) (k n : Nat) :
    (m.storeBytes o sz v k n).unlisted = m.unlisted := by
  induction n generalizing m k with
  | zero => rfl
  | succ n ih => simp [Memory.storeBytes, ih]

theorem Memory.wf_storeBytes (m : Memory) (o : Nat) (sz : Size) (v : Word) (k n : Nat) (h : m.wf = true) :
    (m.storeBytes o sz v k n).wf = true := by
  induction n generalizing m k with
  | zero => exact h
  | succ n ih => exact ih _ _ (Memory.wf_writeAt m _ _ h)

/-- A store changes exactly the bytes it covers that lie in RAM (20_memory R87, R89). -/
theorem Memory.read_store (m : Memory) (o : Nat) (sz : Size) (v : Word) (b : Nat) :
    (m.store o sz v).read b =
      if o ≤ b ∧ b < o + byteCount sz ∧ b < Config.ramSize then byteOf sz v (b - o) else m.read b := by
  simpa [Memory.store] using m.read_storeBytes o sz v 0 (byteCount sz) b

theorem Memory.wf_store (m : Memory) (o : Nat) (sz : Size) (v : Word) (h : m.wf = true) : (m.store o sz v).wf = true :=
  Memory.wf_storeBytes m o sz v 0 _ h

theorem Memory.wf_storeList (m : Memory) (o : Nat) (l : List Byte) (h : m.wf = true) : (m.storeList o l).wf = true := by
  induction l generalizing m o with
  | nil => exact h
  | cons b rest ih => exact ih _ _ (Memory.wf_writeAt m o b h)

theorem Memory.readAt_store (m : Memory) (o : Nat) (sz : Size) (v : Word) (p k : Nat) :
    (m.store o sz v).readAt p k =
      if o ≤ p + k ∧ p + k < o + byteCount sz ∧ p + k < Config.ramSize then byteOf sz v (p + k - o) else m.readAt p k := by
  unfold Memory.readAt
  rw [Memory.read_store]
  split
  · rename_i h
    simp only [h, and_true]
  · rename_i h
    simp [h]

/-! ## Byte order (20_memory R90) -/

theorem or_byte (a b : Nat) (h : b < 2 ^ 8) : a * 2 ^ 8 ||| b = a * 2 ^ 8 + b := by
  rw [Nat.mul_comm, ← Nat.two_pow_add_eq_or_of_lt h]

/-- A value of size `sz` is the big-endian value of its bytes. -/
theorem joinBytes_byteOf (sz : Size) (v : Word) : joinBytes sz (byteOf sz v) = trunc sz v := by
  apply BitVec.eq_of_toNat_eq
  cases sz <;>
    simp only [joinBytes, byteOf, trunc, byteCount, BitVec.toNat_append, BitVec.toNat_setWidth, BitVec.extractLsb'_toNat,
      Nat.shiftLeft_eq, Nat.shiftRight_eq_div_pow]
  · omega
  · rw [or_byte _ _ (by omega)]
    omega
  · rw [or_byte _ _ (by omega), or_byte _ _ (by omega), or_byte _ _ (by omega)]
    omega

theorem joinBytes_congr (sz : Size) (f g : Nat → Byte) (h : ∀ k, k < byteCount sz → f k = g k) :
    joinBytes sz f = joinBytes sz g := by
  cases sz <;> simp only [joinBytes, byteCount] at * <;> simp [h]

/-- Reading back a store of the same size inside RAM gives the value. -/
theorem Memory.access_store (m : Memory) (o : Nat) (sz : Size) (v : Word) (h : o + byteCount sz ≤ Config.ramSize) :
    (m.store o sz v).access o sz = trunc sz v := by
  unfold Memory.access
  rw [← joinBytes_byteOf]
  apply joinBytes_congr
  intro k hk
  rw [Memory.readAt_store, if_pos (by omega)]
  congr 1
  omega

/-- Reading bytes a store does not cover gives what they held. -/
theorem Memory.access_store_other (m : Memory) (o p : Nat) (sz sz' : Size) (v : Word)
    (h : p + byteCount sz' ≤ o ∨ o + byteCount sz ≤ p) : (m.store o sz v).access p sz' = m.access p sz' := by
  unfold Memory.access
  apply joinBytes_congr
  intro k hk
  rw [Memory.readAt_store, if_neg (by omega)]

end Sys2Proof.Machine
end

