-- ==== Sys2Proof/Laws/Bus.lean ====
section
/-! SUPPORT. The bus: where an address is routed, and once and for all what a read and a write can change. -/

namespace Sys2Proof.Machine

/-! ## Routing (20_memory R84, R96) -/

theorem route_ram {addr : Word} (h : busAddr addr < Config.ramSize) : route addr = some (.ram, busAddr addr) := by
  simp [route, bindings, routeIn, h]

theorem route_psg {addr : Word} (h1 : Config.psgBase ≤ busAddr addr) (h2 : busAddr addr < Config.psgBase + Config.psgSize) :
    route addr = some (.psg, busAddr addr - Config.psgBase) := by
  simp only [Config.psgBase, Config.psgSize] at *
  simp only [route, bindings, routeIn, Config.ramSize, Config.psgBase, Config.psgSize]
  rw [if_neg (by omega), if_pos (by omega)]

theorem route_mfp {addr : Word} (h1 : Config.mfpBase ≤ busAddr addr) (h2 : busAddr addr < Config.mfpBase + Config.mfpSize) :
    route addr = some (.mfp, busAddr addr - Config.mfpBase) := by
  simp only [Config.mfpBase, Config.mfpSize] at *
  simp only [route, bindings, routeIn, Config.ramSize, Config.psgBase, Config.psgSize, Config.mfpBase, Config.mfpSize]
  rw [if_neg (by omega), if_neg (by omega), if_pos (by omega)]

theorem route_dac {addr : Word} (h1 : Config.dacBase ≤ busAddr addr) (h2 : busAddr addr < Config.dacBase + Config.dacSize) :
    route addr = some (.dac, busAddr addr - Config.dacBase) := by
  simp only [Config.dacBase, Config.dacSize] at *
  simp only [route, bindings, routeIn, Config.ramSize, Config.psgBase, Config.psgSize, Config.mfpBase, Config.mfpSize,
    Config.dacBase, Config.dacSize]
  rw [if_neg (by omega), if_neg (by omega), if_neg (by omega), if_pos (by omega)]

/-- An address is routed to RAM exactly when it lies in RAM, at itself. -/
theorem route_eq_ram {addr : Word} {o : Nat} (h : route addr = some (.ram, o)) :
    o = busAddr addr ∧ busAddr addr < Config.ramSize := by
  unfold route bindings at h
  simp only [routeIn] at h
  split at h
  · rename_i h1
    simp only [Option.some.injEq, Prod.mk.injEq, true_and] at h
    exact ⟨by omega, h1.2⟩
  · split at h <;> [skip; (split at h <;> [skip; split at h])] <;> simp at h

/-! ## Reads -/

/-- A read changes nothing but the microwire mask and its cycle count (20_memory R95). -/
theorem memRead_state (s : State) (a : Word) (sz : Size) :
    (memRead s a sz).2 = s ∨ (memRead s a sz).2 = { s with dac := s.dac.microwireCycle } := by
  unfold memRead
  split <;> first | exact .inl rfl | skip
  simp only [Dac.touch]
  split
  · exact .inr rfl
  · exact .inl rfl

/-- A read of RAM changes nothing. -/
theorem memRead_ram {s : State} {a : Word} (sz : Size) (h : busAddr a < Config.ramSize) :
    memRead s a sz = (s.ram.access (busAddr a) sz, s) := by
  simp [memRead, route_ram h]

/-- What a microwire cycle changes (63 R575). -/
theorem Dac.microwireCycle_eq (d : Dac) :
    ∃ m n, n ≤ d.mwCycles ∧ d.microwireCycle = { d with mwMask := m, mwCycles := n } := by
  unfold Dac.microwireCycle
  split
  · exact ⟨_, _, Nat.sub_le _ _, rfl⟩
  · exact ⟨d.mwMask, d.mwCycles, Nat.le_refl _, rfl⟩

/-- What a read leaves, in one form: the mask and the count may change. -/
theorem memRead_dac (s : State) (a : Word) (sz : Size) :
    ∃ m n, n ≤ s.dac.mwCycles ∧ (memRead s a sz).2 = { s with dac := { s.dac with mwMask := m, mwCycles := n } } := by
  rcases memRead_state s a sz with h | h
  · exact ⟨s.dac.mwMask, s.dac.mwCycles, Nat.le_refl _, h⟩
  · obtain ⟨m, n, hn, hd⟩ := s.dac.microwireCycle_eq
    exact ⟨m, n, hn, by rw [h, hd]⟩

/-- A fetch moves `PC` on by 2 and is otherwise a read. -/
theorem fetchWord_state (s : State) :
    ∃ m n, n ≤ s.dac.mwCycles ∧
      (fetchWord s).2 = { s with pc := s.pc + 2, dac := { s.dac with mwMask := m, mwCycles := n } } := by
  obtain ⟨m, n, hn, h⟩ := memRead_dac s s.pc .w
  refine ⟨m, n, hn, ?_⟩
  unfold fetchWord
  simp only [h]
  rfl

/-! ## Writes -/

/-- All a write can change: one of RAM and the three devices, by that one's own store. -/
theorem memWrite_cases {s t : State} {a : Word} {sz : Size} {v : Word} (h : memWrite s a sz v = .ok t) :
    t = s ∨ (∃ o, route a = some (.ram, o) ∧ t = { s with ram := s.ram.store o sz v })
      ∨ (∃ o, route a = some (.psg, o) ∧ t = { s with psg := s.psg.store o sz v })
      ∨ (∃ o m, route a = some (.mfp, o) ∧ s.mfp.store o sz v = .ok m ∧ t = { s with mfp := m })
      ∨ (∃ o, route a = some (.dac, o) ∧ t = { s with dac := s.dac.store o sz v }) := by
  unfold memWrite at h
  split at h
  · rename_i o ho
    injection h with h
    exact .inr (.inl ⟨o, ho, h.symm⟩)
  · rename_i o ho
    injection h with h
    exact .inr (.inr (.inl ⟨o, ho, h.symm⟩))
  · rename_i o ho
    cases hm : s.mfp.store o sz v with
    | ok m =>
      rw [hm] at h
      injection h with h
      exact .inr (.inr (.inr (.inl ⟨o, m, ho, hm, h.symm⟩)))
    | error r => rw [hm] at h; cases h
  · rename_i o ho
    injection h with h
    exact .inr (.inr (.inr (.inr ⟨o, ho, h.symm⟩)))
  · injection h with h
    exact .inl h.symm

/-- A write changes nothing but RAM and the devices. -/
theorem memWrite_frame {s t : State} {a : Word} {sz : Size} {v : Word} (h : memWrite s a sz v = .ok t) :
    t = { s with ram := t.ram, psg := t.psg, mfp := t.mfp, dac := t.dac } := by
  rcases memWrite_cases h with h | ⟨o, _, h⟩ | ⟨o, _, h⟩ | ⟨o, m, _, _, h⟩ | ⟨o, _, h⟩ <;> subst h <;> rfl

/-- A write to RAM is never refused. -/
theorem memWrite_ram {s : State} {a : Word} (sz : Size) (v : Word) (h : busAddr a < Config.ramSize) :
    memWrite s a sz v = .ok { s with ram := s.ram.store (busAddr a) sz v } := by
  simp [memWrite, route_ram h]

end Sys2Proof.Machine
end

