-- ==== Sys2Proof/Laws/Clock.lean ====
section
/-! SUPPORT. The clock synchroniser: all that a call can do, and that it keeps its invariant (64 R601, R602). -/

namespace Sys2Proof.Machine

/-- A call either counts, or is a tick that starts the count again and moves the correction. -/
theorem ClockManager.advance_cases (c : ClockManager) :
    (c.timeSinceLastCycle + 1 < c.spacing ∧
      c.advance = ({ c with timeSinceLastCycle := c.timeSinceLastCycle + 1 }, false)) ∨
    (c.spacing ≤ c.timeSinceLastCycle + 1 ∧
      c.advance = ({ c with
        timeSinceLastCycle := 0
        correction := (if c.target ≤ c.correction then c.correction - c.target else c.correction) + c.part }, true)) := by
  unfold ClockManager.advance
  split
  · exact .inl ⟨by assumption, rfl⟩
  · exact .inr ⟨by omega, rfl⟩

/-- Started at the reset phase of 10_state R54, a clock manager is the one at reset. -/
@[simp] theorem ClockManager.start_cold (b t : Nat) :
    ClockManager.start b t (ClockPhase.cold b t) = ClockManager.cold b t := rfl

/-- The invariant of a clock manager as a proposition. -/
theorem ClockManager.ok_iff (c : ClockManager) :
    c.ok = true ↔ ((0 < c.target ∧ c.target ≤ c.base) ∧ c.correction < 2 * c.target) ∧
      c.timeSinceLastCycle < c.base / c.target + c.correction / c.target := by
  simp only [ClockManager.ok, Bool.and_eq_true, decide_eq_true_eq]
  rfl

theorem ClockManager.ok_cold {b t : Nat} (h0 : 0 < t) (h : t ≤ b) : (ClockManager.cold b t).ok = true := by
  have hw : 0 < b / t := Nat.div_pos h h0
  have hm : b % t < t := Nat.mod_lt _ h0
  rw [ClockManager.ok_iff]
  refine ⟨⟨⟨h0, h⟩, ?_⟩, ?_⟩
  · show b % t < 2 * t
    omega
  · show 0 < b / t + b % t / t
    exact Nat.add_pos_left hw _

theorem ClockManager.ok_advance {c : ClockManager} (h : c.ok = true) : c.advance.1.ok = true := by
  rw [ClockManager.ok_iff] at h
  obtain ⟨⟨⟨h0, h1⟩, h2⟩, h3⟩ := h
  have hw : 0 < c.base / c.target := Nat.div_pos h1 h0
  have hm : c.base % c.target < c.target := Nat.mod_lt _ h0
  rcases c.advance_cases with ⟨hlt, e⟩ | ⟨_, e⟩ <;> rw [e, ClockManager.ok_iff]
  · exact ⟨⟨⟨h0, h1⟩, h2⟩, hlt⟩
  · refine ⟨⟨⟨h0, h1⟩, ?_⟩, Nat.add_pos_left hw _⟩
    simp only [ClockManager.part]
    split <;> omega

end Sys2Proof.Machine
end

