-- ==== Sys2Proof/Laws/State.lean ====
section
/-! SUPPORT. One lemma per field per update of the state (the setters of Machine/Ops.lean), and what a register read sees
after a register write, so that no later proof unfolds a record update. -/

namespace Sys2Proof.Machine

/-! ## setPc -/

@[simp] theorem State.setPc_params (s : State) (v : Word) : (s.setPc v).params = s.params := rfl
@[simp] theorem State.setPc_d (s : State) (v : Word) : (s.setPc v).d = s.d := rfl
@[simp] theorem State.setPc_a (s : State) (v : Word) : (s.setPc v).a = s.a := rfl
@[simp] theorem State.setPc_usp (s : State) (v : Word) : (s.setPc v).usp = s.usp := rfl
@[simp] theorem State.setPc_ssp (s : State) (v : Word) : (s.setPc v).ssp = s.ssp := rfl
@[simp] theorem State.setPc_isp (s : State) (v : Word) : (s.setPc v).isp = s.isp := rfl
@[simp] theorem State.setPc_sr (s : State) (v : Word) : (s.setPc v).sr = s.sr := rfl
@[simp] theorem State.setPc_vbr (s : State) (v : Word) : (s.setPc v).vbr = s.vbr := rfl
@[simp] theorem State.setPc_stopped (s : State) (v : Word) : (s.setPc v).stopped = s.stopped := rfl
@[simp] theorem State.setPc_fault (s : State) (v : Word) : (s.setPc v).fault = s.fault := rfl
@[simp] theorem State.setPc_trap (s : State) (v : Word) : (s.setPc v).trap = s.trap := rfl
@[simp] theorem State.setPc_ram (s : State) (v : Word) : (s.setPc v).ram = s.ram := rfl
@[simp] theorem State.setPc_psg (s : State) (v : Word) : (s.setPc v).psg = s.psg := rfl
@[simp] theorem State.setPc_psgClock (s : State) (v : Word) : (s.setPc v).psgClock = s.psgClock := rfl
@[simp] theorem State.setPc_mfp (s : State) (v : Word) : (s.setPc v).mfp = s.mfp := rfl
@[simp] theorem State.setPc_mfpClock (s : State) (v : Word) : (s.setPc v).mfpClock = s.mfpClock := rfl
@[simp] theorem State.setPc_dac (s : State) (v : Word) : (s.setPc v).dac = s.dac := rfl
@[simp] theorem State.setPc_dacClock (s : State) (v : Word) : (s.setPc v).dacClock = s.dacClock := rfl
@[simp] theorem State.setPc_callMade (s : State) (v : Word) : (s.setPc v).callMade = s.callMade := rfl
@[simp] theorem State.setPc_draws (s : State) (v : Word) : (s.setPc v).draws = s.draws := rfl

/-! ## setSr -/

@[simp] theorem State.setSr_params (s : State) (f : Status) : (s.setSr f).params = s.params := rfl
@[simp] theorem State.setSr_d (s : State) (f : Status) : (s.setSr f).d = s.d := rfl
@[simp] theorem State.setSr_a (s : State) (f : Status) : (s.setSr f).a = s.a := rfl
@[simp] theorem State.setSr_usp (s : State) (f : Status) : (s.setSr f).usp = s.usp := rfl
@[simp] theorem State.setSr_ssp (s : State) (f : Status) : (s.setSr f).ssp = s.ssp := rfl
@[simp] theorem State.setSr_isp (s : State) (f : Status) : (s.setSr f).isp = s.isp := rfl
@[simp] theorem State.setSr_pc (s : State) (f : Status) : (s.setSr f).pc = s.pc := rfl
@[simp] theorem State.setSr_vbr (s : State) (f : Status) : (s.setSr f).vbr = s.vbr := rfl
@[simp] theorem State.setSr_stopped (s : State) (f : Status) : (s.setSr f).stopped = s.stopped := rfl
@[simp] theorem State.setSr_fault (s : State) (f : Status) : (s.setSr f).fault = s.fault := rfl
@[simp] theorem State.setSr_trap (s : State) (f : Status) : (s.setSr f).trap = s.trap := rfl
@[simp] theorem State.setSr_ram (s : State) (f : Status) : (s.setSr f).ram = s.ram := rfl
@[simp] theorem State.setSr_psg (s : State) (f : Status) : (s.setSr f).psg = s.psg := rfl
@[simp] theorem State.setSr_psgClock (s : State) (f : Status) : (s.setSr f).psgClock = s.psgClock := rfl
@[simp] theorem State.setSr_mfp (s : State) (f : Status) : (s.setSr f).mfp = s.mfp := rfl
@[simp] theorem State.setSr_mfpClock (s : State) (f : Status) : (s.setSr f).mfpClock = s.mfpClock := rfl
@[simp] theorem State.setSr_dac (s : State) (f : Status) : (s.setSr f).dac = s.dac := rfl
@[simp] theorem State.setSr_dacClock (s : State) (f : Status) : (s.setSr f).dacClock = s.dacClock := rfl
@[simp] theorem State.setSr_callMade (s : State) (f : Status) : (s.setSr f).callMade = s.callMade := rfl
@[simp] theorem State.setSr_draws (s : State) (f : Status) : (s.setSr f).draws = s.draws := rfl

/-! ## setD -/

@[simp] theorem State.setD_params (s : State) (n : Reg) (v : Word) : (s.setD n v).params = s.params := rfl
@[simp] theorem State.setD_a (s : State) (n : Reg) (v : Word) : (s.setD n v).a = s.a := rfl
@[simp] theorem State.setD_usp (s : State) (n : Reg) (v : Word) : (s.setD n v).usp = s.usp := rfl
@[simp] theorem State.setD_ssp (s : State) (n : Reg) (v : Word) : (s.setD n v).ssp = s.ssp := rfl
@[simp] theorem State.setD_isp (s : State) (n : Reg) (v : Word) : (s.setD n v).isp = s.isp := rfl
@[simp] theorem State.setD_pc (s : State) (n : Reg) (v : Word) : (s.setD n v).pc = s.pc := rfl
@[simp] theorem State.setD_sr (s : State) (n : Reg) (v : Word) : (s.setD n v).sr = s.sr := rfl
@[simp] theorem State.setD_vbr (s : State) (n : Reg) (v : Word) : (s.setD n v).vbr = s.vbr := rfl
@[simp] theorem State.setD_stopped (s : State) (n : Reg) (v : Word) : (s.setD n v).stopped = s.stopped := rfl
@[simp] theorem State.setD_fault (s : State) (n : Reg) (v : Word) : (s.setD n v).fault = s.fault := rfl
@[simp] theorem State.setD_trap (s : State) (n : Reg) (v : Word) : (s.setD n v).trap = s.trap := rfl
@[simp] theorem State.setD_ram (s : State) (n : Reg) (v : Word) : (s.setD n v).ram = s.ram := rfl
@[simp] theorem State.setD_psg (s : State) (n : Reg) (v : Word) : (s.setD n v).psg = s.psg := rfl
@[simp] theorem State.setD_psgClock (s : State) (n : Reg) (v : Word) : (s.setD n v).psgClock = s.psgClock := rfl
@[simp] theorem State.setD_mfp (s : State) (n : Reg) (v : Word) : (s.setD n v).mfp = s.mfp := rfl
@[simp] theorem State.setD_mfpClock (s : State) (n : Reg) (v : Word) : (s.setD n v).mfpClock = s.mfpClock := rfl
@[simp] theorem State.setD_dac (s : State) (n : Reg) (v : Word) : (s.setD n v).dac = s.dac := rfl
@[simp] theorem State.setD_dacClock (s : State) (n : Reg) (v : Word) : (s.setD n v).dacClock = s.dacClock := rfl
@[simp] theorem State.setD_callMade (s : State) (n : Reg) (v : Word) : (s.setD n v).callMade = s.callMade := rfl
@[simp] theorem State.setD_draws (s : State) (n : Reg) (v : Word) : (s.setD n v).draws = s.draws := rfl

/-! ## writeD -/

@[simp] theorem State.writeD_params (s : State) (n : Reg) (sz : Size) (v : Word) : (s.writeD n sz v).params = s.params := rfl
@[simp] theorem State.writeD_a (s : State) (n : Reg) (sz : Size) (v : Word) : (s.writeD n sz v).a = s.a := rfl
@[simp] theorem State.writeD_usp (s : State) (n : Reg) (sz : Size) (v : Word) : (s.writeD n sz v).usp = s.usp := rfl
@[simp] theorem State.writeD_ssp (s : State) (n : Reg) (sz : Size) (v : Word) : (s.writeD n sz v).ssp = s.ssp := rfl
@[simp] theorem State.writeD_isp (s : State) (n : Reg) (sz : Size) (v : Word) : (s.writeD n sz v).isp = s.isp := rfl
@[simp] theorem State.writeD_pc (s : State) (n : Reg) (sz : Size) (v : Word) : (s.writeD n sz v).pc = s.pc := rfl
@[simp] theorem State.writeD_sr (s : State) (n : Reg) (sz : Size) (v : Word) : (s.writeD n sz v).sr = s.sr := rfl
@[simp] theorem State.writeD_vbr (s : State) (n : Reg) (sz : Size) (v : Word) : (s.writeD n sz v).vbr = s.vbr := rfl
@[simp] theorem State.writeD_stopped (s : State) (n : Reg) (sz : Size) (v : Word) : (s.writeD n sz v).stopped = s.stopped := rfl
@[simp] theorem State.writeD_fault (s : State) (n : Reg) (sz : Size) (v : Word) : (s.writeD n sz v).fault = s.fault := rfl
@[simp] theorem State.writeD_trap (s : State) (n : Reg) (sz : Size) (v : Word) : (s.writeD n sz v).trap = s.trap := rfl
@[simp] theorem State.writeD_ram (s : State) (n : Reg) (sz : Size) (v : Word) : (s.writeD n sz v).ram = s.ram := rfl
@[simp] theorem State.writeD_psg (s : State) (n : Reg) (sz : Size) (v : Word) : (s.writeD n sz v).psg = s.psg := rfl
@[simp] theorem State.writeD_psgClock (s : State) (n : Reg) (sz : Size) (v : Word) : (s.writeD n sz v).psgClock = s.psgClock := rfl
@[simp] theorem State.writeD_mfp (s : State) (n : Reg) (sz : Size) (v : Word) : (s.writeD n sz v).mfp = s.mfp := rfl
@[simp] theorem State.writeD_mfpClock (s : State) (n : Reg) (sz : Size) (v : Word) : (s.writeD n sz v).mfpClock = s.mfpClock := rfl
@[simp] theorem State.writeD_dac (s : State) (n : Reg) (sz : Size) (v : Word) : (s.writeD n sz v).dac = s.dac := rfl
@[simp] theorem State.writeD_dacClock (s : State) (n : Reg) (sz : Size) (v : Word) : (s.writeD n sz v).dacClock = s.dacClock := rfl
@[simp] theorem State.writeD_callMade (s : State) (n : Reg) (sz : Size) (v : Word) : (s.writeD n sz v).callMade = s.callMade := rfl
@[simp] theorem State.writeD_draws (s : State) (n : Reg) (sz : Size) (v : Word) : (s.writeD n sz v).draws = s.draws := rfl

/-! ## setSp -/

@[simp] theorem State.setSp_params (s : State) (v : Word) : (s.setSp v).params = s.params := by
  unfold State.setSp; split <;> [split; skip] <;> rfl
@[simp] theorem State.setSp_d (s : State) (v : Word) : (s.setSp v).d = s.d := by
  unfold State.setSp; split <;> [split; skip] <;> rfl
@[simp] theorem State.setSp_a (s : State) (v : Word) : (s.setSp v).a = s.a := by
  unfold State.setSp; split <;> [split; skip] <;> rfl
@[simp] theorem State.setSp_pc (s : State) (v : Word) : (s.setSp v).pc = s.pc := by
  unfold State.setSp; split <;> [split; skip] <;> rfl
@[simp] theorem State.setSp_sr (s : State) (v : Word) : (s.setSp v).sr = s.sr := by
  unfold State.setSp; split <;> [split; skip] <;> rfl
@[simp] theorem State.setSp_vbr (s : State) (v : Word) : (s.setSp v).vbr = s.vbr := by
  unfold State.setSp; split <;> [split; skip] <;> rfl
@[simp] theorem State.setSp_stopped (s : State) (v : Word) : (s.setSp v).stopped = s.stopped := by
  unfold State.setSp; split <;> [split; skip] <;> rfl
@[simp] theorem State.setSp_fault (s : State) (v : Word) : (s.setSp v).fault = s.fault := by
  unfold State.setSp; split <;> [split; skip] <;> rfl
@[simp] theorem State.setSp_trap (s : State) (v : Word) : (s.setSp v).trap = s.trap := by
  unfold State.setSp; split <;> [split; skip] <;> rfl
@[simp] theorem State.setSp_ram (s : State) (v : Word) : (s.setSp v).ram = s.ram := by
  unfold State.setSp; split <;> [split; skip] <;> rfl
@[simp] theorem State.setSp_psg (s : State) (v : Word) : (s.setSp v).psg = s.psg := by
  unfold State.setSp; split <;> [split; skip] <;> rfl
@[simp] theorem State.setSp_psgClock (s : State) (v : Word) : (s.setSp v).psgClock = s.psgClock := by
  unfold State.setSp; split <;> [split; skip] <;> rfl
@[simp] theorem State.setSp_mfp (s : State) (v : Word) : (s.setSp v).mfp = s.mfp := by
  unfold State.setSp; split <;> [split; skip] <;> rfl
@[simp] theorem State.setSp_mfpClock (s : State) (v : Word) : (s.setSp v).mfpClock = s.mfpClock := by
  unfold State.setSp; split <;> [split; skip] <;> rfl
@[simp] theorem State.setSp_dac (s : State) (v : Word) : (s.setSp v).dac = s.dac := by
  unfold State.setSp; split <;> [split; skip] <;> rfl
@[simp] theorem State.setSp_dacClock (s : State) (v : Word) : (s.setSp v).dacClock = s.dacClock := by
  unfold State.setSp; split <;> [split; skip] <;> rfl
@[simp] theorem State.setSp_callMade (s : State) (v : Word) : (s.setSp v).callMade = s.callMade := by
  unfold State.setSp; split <;> [split; skip] <;> rfl
@[simp] theorem State.setSp_draws (s : State) (v : Word) : (s.setSp v).draws = s.draws := by
  unfold State.setSp; split <;> [split; skip] <;> rfl

/-! ## setA -/

@[simp] theorem State.setA_params (s : State) (n : Reg) (v : Word) : (s.setA n v).params = s.params := by
  unfold State.setA; split
  · rfl
  · simp
@[simp] theorem State.setA_d (s : State) (n : Reg) (v : Word) : (s.setA n v).d = s.d := by
  unfold State.setA; split
  · rfl
  · simp
@[simp] theorem State.setA_pc (s : State) (n : Reg) (v : Word) : (s.setA n v).pc = s.pc := by
  unfold State.setA; split
  · rfl
  · simp
@[simp] theorem State.setA_sr (s : State) (n : Reg) (v : Word) : (s.setA n v).sr = s.sr := by
  unfold State.setA; split
  · rfl
  · simp
@[simp] theorem State.setA_vbr (s : State) (n : Reg) (v : Word) : (s.setA n v).vbr = s.vbr := by
  unfold State.setA; split
  · rfl
  · simp
@[simp] theorem State.setA_stopped (s : State) (n : Reg) (v : Word) : (s.setA n v).stopped = s.stopped := by
  unfold State.setA; split
  · rfl
  · simp
@[simp] theorem State.setA_fault (s : State) (n : Reg) (v : Word) : (s.setA n v).fault = s.fault := by
  unfold State.setA; split
  · rfl
  · simp
@[simp] theorem State.setA_trap (s : State) (n : Reg) (v : Word) : (s.setA n v).trap = s.trap := by
  unfold State.setA; split
  · rfl
  · simp
@[simp] theorem State.setA_ram (s : State) (n : Reg) (v : Word) : (s.setA n v).ram = s.ram := by
  unfold State.setA; split
  · rfl
  · simp
@[simp] theorem State.setA_psg (s : State) (n : Reg) (v : Word) : (s.setA n v).psg = s.psg := by
  unfold State.setA; split
  · rfl
  · simp
@[simp] theorem State.setA_psgClock (s : State) (n : Reg) (v : Word) : (s.setA n v).psgClock = s.psgClock := by
  unfold State.setA; split
  · rfl
  · simp
@[simp] theorem State.setA_mfp (s : State) (n : Reg) (v : Word) : (s.setA n v).mfp = s.mfp := by
  unfold State.setA; split
  · rfl
  · simp
@[simp] theorem State.setA_mfpClock (s : State) (n : Reg) (v : Word) : (s.setA n v).mfpClock = s.mfpClock := by
  unfold State.setA; split
  · rfl
  · simp
@[simp] theorem State.setA_dac (s : State) (n : Reg) (v : Word) : (s.setA n v).dac = s.dac := by
  unfold State.setA; split
  · rfl
  · simp
@[simp] theorem State.setA_dacClock (s : State) (n : Reg) (v : Word) : (s.setA n v).dacClock = s.dacClock := by
  unfold State.setA; split
  · rfl
  · simp
@[simp] theorem State.setA_callMade (s : State) (n : Reg) (v : Word) : (s.setA n v).callMade = s.callMade := by
  unfold State.setA; split
  · rfl
  · simp
@[simp] theorem State.setA_draws (s : State) (n : Reg) (v : Word) : (s.setA n v).draws = s.draws := by
  unfold State.setA; split
  · rfl
  · simp

@[simp] theorem State.setPc_pc (s : State) (v : Word) : (s.setPc v).pc = v := rfl
@[simp] theorem State.setSr_sr (s : State) (f : Status) : (s.setSr f).sr = f := rfl

/-! ## Register reads after writes -/

@[simp] theorem State.dreg_setPc (s : State) (v : Word) (n : Reg) : (s.setPc v).dreg n = s.dreg n := rfl
@[simp] theorem State.dreg_setSr (s : State) (f : Status) (n : Reg) : (s.setSr f).dreg n = s.dreg n := rfl
@[simp] theorem State.areg_setPc (s : State) (v : Word) (n : Reg) : (s.setPc v).areg n = s.areg n := rfl
@[simp] theorem State.sp_setPc (s : State) (v : Word) : (s.setPc v).sp = s.sp := rfl
@[simp] theorem State.sp_setD (s : State) (n : Reg) (v : Word) : (s.setD n v).sp = s.sp := rfl
@[simp] theorem State.areg_setD (s : State) (n m : Reg) (v : Word) : (s.setD n v).areg m = s.areg m := rfl
@[simp] theorem State.areg_writeD (s : State) (n m : Reg) (sz : Size) (v : Word) :
    (s.writeD n sz v).areg m = s.areg m := rfl

@[simp] theorem State.dreg_setA (s : State) (n m : Reg) (v : Word) : (s.setA n v).dreg m = s.dreg m := by
  simp [State.dreg]

@[simp] theorem State.dreg_setSp (s : State) (m : Reg) (v : Word) : (s.setSp v).dreg m = s.dreg m := by
  simp [State.dreg]

@[simp] theorem State.dreg_setD_same (s : State) (n : Reg) (v : Word) : (s.setD n v).dreg n = v := by
  simp [State.dreg, State.setD]

theorem State.dreg_setD_other (s : State) {n m : Reg} (v : Word) (h : n ≠ m) : (s.setD n v).dreg m = s.dreg m := by
  have h' : n.val ≠ m.val := fun e => h (Fin.ext e)
  simp [State.dreg, State.setD, h']

@[simp] theorem State.dreg_writeD_same (s : State) (n : Reg) (sz : Size) (v : Word) :
    (s.writeD n sz v).dreg n = merge sz (s.dreg n) v := by
  simp [State.writeD]

theorem State.dreg_writeD_other (s : State) {n m : Reg} (sz : Size) (v : Word) (h : n ≠ m) :
    (s.writeD n sz v).dreg m = s.dreg m := State.dreg_setD_other s _ h

/-- A write through the active stack pointer is read back through it (10_state R24). -/
@[simp] theorem State.sp_setSp (s : State) (v : Word) : (s.setSp v).sp = v := by
  unfold State.sp
  simp only [State.setSp_sr]
  unfold State.setSp
  split <;> [split; skip] <;> simp

@[simp] theorem State.areg_setA_same (s : State) (n : Reg) (v : Word) : (s.setA n v).areg n = v := by
  by_cases h : n.val < 7
  · simp [State.areg, State.setA, h]
  · simp [State.areg, State.setA, h]

theorem State.areg_setA_other (s : State) {n m : Reg} (v : Word) (h : n ≠ m) : (s.setA n v).areg m = s.areg m := by
  have h' : n.val ≠ m.val := fun e => h (Fin.ext e)
  by_cases hn : n.val < 7 <;> by_cases hm : m.val < 7
  · simp [State.areg, State.setA, hn, hm, h']
  · simp [State.areg, State.setA, hn, hm, State.sp]
  · simp [State.areg, State.setA, hn, hm]
  · omega

/-- `A[7]` is the active stack pointer (10_state R24). -/
theorem State.areg_seven (s : State) : s.areg 7 = s.sp := rfl

end Sys2Proof.Machine
end

