-- ==== Sys2Proof/Laws/Run.lean ====
section
/-! SUPPORT. Running the parts of an instruction: what each primitive answers, and one rule per primitive for a relation
between the state before and the state after. -/

namespace Sys2Proof.Machine

/-! ## What each primitive answers -/

theorem run_bind {α β : Type} (m : M α) (f : α → M β) (s : State) :
    (m >>= f) s = match m s with
      | .ok a t => f a t
      | .error e t => .error e t := by
  show EStateM.bind m f s = _
  unfold EStateM.bind
  cases m s <;> rfl

theorem run_bind_ok {α β : Type} {m : M α} {f : α → M β} {s t : State} {a : α} (h : m s = .ok a t) :
    (m >>= f) s = f a t := by rw [run_bind, h]

theorem run_bind_error {α β : Type} {m : M α} {f : α → M β} {s t : State} {e : Stop} (h : m s = .error e t) :
    (m >>= f) s = .error e t := by rw [run_bind, h]

/-- A sequence that answers a value went through an intermediate state. -/
theorem run_bind_inv {α β : Type} {m : M α} {f : α → M β} {s u : State} {b : β} (h : (m >>= f) s = .ok b u) :
    ∃ a t, m s = .ok a t ∧ f a t = .ok b u := by
  rw [run_bind] at h
  cases hm : m s with
  | ok a t => exact ⟨a, t, rfl, by rw [hm] at h; exact h⟩
  | error e t => rw [hm] at h; cases h

@[simp] theorem run_pure {α : Type} (a : α) (s : State) : (pure a : M α) s = .ok a s := rfl
@[simp] theorem run_look {α : Type} (f : State → α) (s : State) : look f s = .ok (f s) s := rfl
@[simp] theorem run_change (f : State → State) (s : State) : change f s = .ok () (f s) := rfl
@[simp] theorem run_setFlags (g : Status → Status) (s : State) : setFlags g s = .ok () (s.setSr (g s.sr)) := rfl
@[simp] theorem run_hostFault {α : Type} (r : Fault) (s : State) : (hostFault r : M α) s = .error (.fault r) s := rfl
@[simp] theorem run_readMem (a : Word) (sz : Size) (s : State) :
    readMem a sz s = .ok (memRead s a sz).1 (memRead s a sz).2 := rfl
@[simp] theorem run_fetch16 (s : State) : fetch16 s = .ok (fetchWord s).1 (fetchWord s).2 := rfl
@[simp] theorem run_readLoc (l : Loc) (sz : Size) (s : State) :
    readLoc l sz s = .ok (readLocFrom s l sz).1 (readLocFrom s l sz).2 := rfl
@[simp] theorem run_drawBit (s : State) : drawBit s = .ok (Config.freeBit s.draws) { s with draws := s.draws + 1 } := rfl
@[simp] theorem run_drawByte (s : State) :
    drawByte s = .ok (Config.freeByte s.draws) { s with draws := s.draws + 1 } := rfl
@[simp] theorem run_drawWord (s : State) :
    drawWord s = .ok (Config.freeWord s.draws) { s with draws := s.draws + 1 } := rfl

theorem run_writeMem_ok {s t : State} {a : Word} {sz : Size} {v : Word} (h : memWrite s a sz v = .ok t) :
    writeMem a sz v s = .ok () t := by simp [writeMem, h]

theorem run_writeMem_refused {s : State} {a : Word} {sz : Size} {v : Word} {r : Refusal}
    (h : memWrite s a sz v = .error r) : writeMem a sz v s = .error (.refused r) s := by simp [writeMem, h]

/-- `Fetch32()` is two fetches, the high word first. -/
theorem run_fetch32 (s : State) :
    fetch32 s = .ok ((fetchWord s).1 ++ (fetchWord (fetchWord s).2).1) (fetchWord (fetchWord s).2).2 := rfl

/-- A read of a register or of an immediate changes nothing. -/
@[simp] theorem readLocFrom_dreg (s : State) (n : Reg) (sz : Size) :
    readLocFrom s (.dreg n) sz = (trunc sz (s.dreg n), s) := rfl
@[simp] theorem readLocFrom_areg (s : State) (n : Reg) (sz : Size) :
    readLocFrom s (.areg n) sz = (trunc sz (s.areg n), s) := rfl
@[simp] theorem readLocFrom_imm (s : State) (v : Word) (sz : Size) : readLocFrom s (.imm v) sz = (v, s) := rfl
@[simp] theorem readLocFrom_mem (s : State) (a : Word) (sz : Size) : readLocFrom s (.mem a) sz = memRead s a sz := rfl

theorem run_writeLoc_dreg (n : Reg) (sz : Size) (v : Word) (s : State) :
    writeLoc (.dreg n) sz v s = .ok () (s.writeD n sz v) := rfl

/-- How an instruction that answers a next state ended: normally, or with a latched fault. -/
theorem finish_next {m : M Unit} {s t : State} (h : finish m s = .next t) :
    m s = .ok () t ∨ ∃ r u, m s = .error (.fault r) u ∧ t = latchFault s u r := by
  unfold finish at h
  cases hm : m s with
  | ok a u =>
    rw [hm] at h
    left
    injection h with h
    rw [h]
  | error e u =>
    rw [hm] at h
    cases e with
    | fault r => right; exact ⟨r, u, rfl, by injection h with h; exact h.symm⟩
    | refused r => cases h

theorem finish_ok {m : M Unit} {s t : State} (h : m s = .ok () t) : finish m s = .next t := by simp [finish, h]

theorem finish_fault {m : M Unit} {s t : State} {r : Fault} (h : m s = .error (.fault r) t) :
    finish m s = .next (latchFault s t r) := by simp [finish, h]

/-! ## Relations between the state before and after -/

/-- The state a part of an instruction reached. -/
def reached {α : Type} : EStateM.Result Stop State α → State
  | .ok _ t => t
  | .error _ t => t

/-- Whatever the part does, the state it reaches is related to the state it started from. -/
def Moves (R : State → State → Prop) {α : Type} (m : M α) : Prop := ∀ s, R s (reached (m s))

/-- A relation that composes. -/
structure Composes (R : State → State → Prop) : Prop where
  refl : ∀ s, R s s
  trans : ∀ s t u, R s t → R t u → R s u

theorem Moves.bind {R : State → State → Prop} (hR : Composes R) {α β : Type} {m : M α} {f : α → M β}
    (hm : Moves R m) (hf : ∀ a, Moves R (f a)) : Moves R (m >>= f) := by
  intro s
  have h := hm s
  rw [run_bind]
  cases hr : m s with
  | ok a t => rw [hr] at h; exact hR.trans s t _ h (hf a t)
  | error e t => rw [hr] at h; exact h

theorem Moves.pure {R : State → State → Prop} (hR : Composes R) {α : Type} (a : α) : Moves R (Pure.pure a : M α) :=
  fun s => hR.refl s

theorem Moves.look {R : State → State → Prop} (hR : Composes R) {α : Type} (f : State → α) :
    Moves R (Machine.look f) := fun s => hR.refl s

theorem Moves.hostFault {R : State → State → Prop} (hR : Composes R) {α : Type} (r : Fault) :
    Moves R (Machine.hostFault r : M α) := fun s => hR.refl s

theorem Moves.change {R : State → State → Prop} {f : State → State} (h : ∀ s, R s (f s)) : Moves R (Machine.change f) := h

theorem Moves.readMem {R : State → State → Prop} {a : Word} {sz : Size} (h : ∀ s, R s (memRead s a sz).2) :
    Moves R (Machine.readMem a sz) := h

theorem Moves.fetch16 {R : State → State → Prop} (h : ∀ s, R s (fetchWord s).2) : Moves R Machine.fetch16 := h

theorem Moves.writeMem {R : State → State → Prop} (hR : Composes R) {a : Word} {sz : Size} {v : Word}
    (h : ∀ s t, memWrite s a sz v = .ok t → R s t) : Moves R (Machine.writeMem a sz v) := by
  intro s
  unfold Machine.writeMem
  cases hw : memWrite s a sz v with
  | ok t => exact h s t hw
  | error r => exact hR.refl s

/-- A part related for its value and state: what it answers, when it answers. -/
theorem Moves.ok {R : State → State → Prop} {α : Type} {m : M α} (h : Moves R m) {s t : State} {a : α}
    (e : m s = .ok a t) : R s t := by
  have := h s
  rw [e] at this
  exact this

theorem Moves.error {R : State → State → Prop} {α : Type} {m : M α} (h : Moves R m) {s t : State} {e : Stop}
    (he : m s = .error e t) : R s t := by
  have := h s
  rw [he] at this
  exact this

end Sys2Proof.Machine
end

