-- ==== Sys2Proof/Laws/Operands.lean ====
section
/-! SUPPORT. Once and for all what the shared operations can do: the stack, exception entry, operand resolution, operand
reads and writes. -/

namespace Sys2Proof.Machine

/-! ## Stack -/

/-- `Push` is one bus write below the stack pointer, which has moved before the write. -/
theorem run_push (sz : Size) (v : Word) (s : State) :
    push sz v s = writeMem (s.sp - BitVec.ofNat 32 (byteCount sz)) sz v
      (s.setSp (s.sp - BitVec.ofNat 32 (byteCount sz))) := by
  simp only [push, run_bind, run_change, run_look, State.sp_setSp]

/-- `Pop` is one bus read at the stack pointer, which moves after the read. -/
theorem run_pop (sz : Size) (s : State) :
    pop sz s = .ok (memRead s s.sp sz).1
      ((memRead s s.sp sz).2.setSp ((memRead s s.sp sz).2.sp + BitVec.ofNat 32 (byteCount sz))) := by
  simp only [pop, run_bind, run_change, run_look, run_readMem, run_pure]

/-- `ExceptionEntry` is three pushes on the stack that the new status word selects, then the load of the vector. -/
theorem run_exceptionEntry (vector : Byte) (ret : Word) (k : ExceptionKind) (s : State) :
    exceptionEntry vector ret k s =
      (push .w ((frameWord vector).setWidth 32) >>= fun _ => push .l ret >>= fun _ =>
        push .w (s.sr.toWord.setWidth 32) >>= fun _ => look (fun u => vectorAddress u vector) >>= fun target =>
        readMem target .l >>= fun pc => change (fun u => { u with pc := pc, stopped := false, trap := true }))
        (s.setSr (s.sr.entered k)) := by
  simp only [exceptionEntry, run_bind, run_look, run_change]

/-! ## Operand resolution -/

/-- All that resolving an operand and reading it can change: address registers, `PC`, and the microwire mask with its
cycle count, which never rises. -/
def Consults (s t : State) : Prop :=
  ∃ a u v w pc m n, n ≤ s.dac.mwCycles ∧
    t = { s with a := a, usp := u, ssp := v, isp := w, pc := pc, dac := { s.dac with mwMask := m, mwCycles := n } }

theorem Consults.composes : Composes Consults where
  refl s := ⟨s.a, s.usp, s.ssp, s.isp, s.pc, s.dac.mwMask, s.dac.mwCycles, Nat.le_refl _, rfl⟩
  trans := by
    rintro s t u ⟨a, b, c, d, e, f, n, hn, rfl⟩ ⟨a', b', c', d', e', f', n', hn', rfl⟩
    exact ⟨a', b', c', d', e', f', n', Nat.le_trans hn' hn, rfl⟩

theorem Consults.memRead (s : State) (a : Word) (sz : Size) : Consults s (Machine.memRead s a sz).2 := by
  obtain ⟨m, n, hn, h⟩ := memRead_dac s a sz
  exact ⟨s.a, s.usp, s.ssp, s.isp, s.pc, m, n, hn, h⟩

theorem Consults.fetch (s : State) : Consults s (fetchWord s).2 := by
  obtain ⟨m, n, hn, h⟩ := fetchWord_state s
  exact ⟨s.a, s.usp, s.ssp, s.isp, s.pc + 2, m, n, hn, h⟩

theorem Consults.setA (s : State) (n : Reg) (v : Word) : Consults s (s.setA n v) := by
  unfold State.setA State.setSp
  split
  · exact ⟨_, s.usp, s.ssp, s.isp, s.pc, s.dac.mwMask, s.dac.mwCycles, Nat.le_refl _, rfl⟩
  · split
    · split
      · exact ⟨s.a, s.usp, v, s.isp, s.pc, s.dac.mwMask, s.dac.mwCycles, Nat.le_refl _, rfl⟩
      · exact ⟨s.a, s.usp, s.ssp, v, s.pc, s.dac.mwMask, s.dac.mwCycles, Nat.le_refl _, rfl⟩
    · exact ⟨s.a, v, s.ssp, s.isp, s.pc, s.dac.mwMask, s.dac.mwCycles, Nat.le_refl _, rfl⟩

theorem moves_fetch16 : Moves Consults fetch16 := Moves.fetch16 Consults.fetch

theorem moves_fetch32 : Moves Consults fetch32 :=
  Moves.bind Consults.composes moves_fetch16 fun _ =>
    Moves.bind Consults.composes moves_fetch16 fun _ => Moves.pure Consults.composes _

theorem moves_fetchImm (sz : Size) : Moves Consults (fetchImm sz) := by
  cases sz
  · exact Moves.bind Consults.composes moves_fetch16 fun _ => Moves.pure Consults.composes _
  · exact Moves.bind Consults.composes moves_fetch16 fun _ => Moves.pure Consults.composes _
  · exact moves_fetch32

theorem moves_indexDisp (x : IndexWord) : Moves Consults (indexDisp x) := by
  unfold indexDisp
  split
  · exact Moves.pure Consults.composes _
  · split
    · exact Moves.hostFault Consults.composes _
    · split
      · exact Moves.bind Consults.composes moves_fetch16 fun _ => Moves.pure Consults.composes _
      · exact moves_fetch32
      · exact Moves.hostFault Consults.composes _

theorem moves_indexAddress (base : Word) : Moves Consults (indexAddress base) :=
  Moves.bind Consults.composes moves_fetch16 fun _ =>
    Moves.bind Consults.composes (Moves.look Consults.composes _) fun _ =>
      Moves.bind Consults.composes (moves_indexDisp _) fun _ => Moves.pure Consults.composes _

/-- Whatever the mode, and whether it answers or faults, resolving changes no more than `Consults` says. -/
theorem moves_resolve (e : Ea) (sz : Size) : Moves Consults (resolve e sz) := by
  cases e with
  | dn n => exact Moves.pure Consults.composes _
  | an n => exact Moves.pure Consults.composes _
  | ind n => exact Moves.bind Consults.composes (Moves.look Consults.composes _) fun _ => Moves.pure Consults.composes _
  | postinc n =>
    exact Moves.bind Consults.composes (Moves.look Consults.composes _) fun _ =>
      Moves.bind Consults.composes (Moves.change fun s => Consults.setA s _ _) fun _ => Moves.pure Consults.composes _
  | predec n =>
    exact Moves.bind Consults.composes (Moves.look Consults.composes _) fun _ =>
      Moves.bind Consults.composes (Moves.change fun s => Consults.setA s _ _) fun _ => Moves.pure Consults.composes _
  | disp n =>
    exact Moves.bind Consults.composes moves_fetch16 fun _ =>
      Moves.bind Consults.composes (Moves.look Consults.composes _) fun _ => Moves.pure Consults.composes _
  | index n =>
    exact Moves.bind Consults.composes (Moves.look Consults.composes _) fun _ =>
      Moves.bind Consults.composes (moves_indexAddress _) fun _ => Moves.pure Consults.composes _
  | absW => exact Moves.bind Consults.composes moves_fetch16 fun _ => Moves.pure Consults.composes _
  | absL => exact Moves.bind Consults.composes moves_fetch32 fun _ => Moves.pure Consults.composes _
  | pcDisp =>
    exact Moves.bind Consults.composes (Moves.look Consults.composes _) fun _ =>
      Moves.bind Consults.composes moves_fetch16 fun _ => Moves.pure Consults.composes _
  | pcIndex =>
    exact Moves.bind Consults.composes (Moves.look Consults.composes _) fun _ =>
      Moves.bind Consults.composes (moves_indexAddress _) fun _ => Moves.pure Consults.composes _
  | imm => exact Moves.bind Consults.composes (moves_fetchImm sz) fun _ => Moves.pure Consults.composes _

theorem Consults.readLocFrom (s : State) (l : Loc) (sz : Size) : Consults s (Machine.readLocFrom s l sz).2 := by
  cases l with
  | mem a => exact Consults.memRead s a sz
  | dreg n => exact Consults.composes.refl s
  | areg n => exact Consults.composes.refl s
  | imm v => exact Consults.composes.refl s

theorem moves_readEa (e : Ea) (sz : Size) : Moves Consults (readEa e sz) :=
  Moves.bind Consults.composes (moves_resolve e sz) fun l => fun s => Consults.readLocFrom s l sz

/-- Reading an operand is resolving its locator and reading through it. -/
theorem run_readEa {e : Ea} {sz : Size} {s s1 : State} {l : Loc} (h : resolve e sz s = .ok l s1) :
    readEa e sz s = .ok (readLocFrom s1 l sz).1 (readLocFrom s1 l sz).2 := by
  simp only [readEa, run_bind, h, run_readLoc]

/-! ## Values have the size they are read with -/

theorem trunc_lt (sz : Size) (v : Word) : (trunc sz v).toNat < 2 ^ bitCount sz := by
  cases sz
  · have := (v.setWidth 8).isLt
    simpa [trunc, bitCount] using by omega
  · have := (v.setWidth 16).isLt
    simpa [trunc, bitCount] using by omega
  · exact v.isLt

theorem joinBytes_lt (sz : Size) (f : Nat → Byte) : (joinBytes sz f).toNat < 2 ^ bitCount sz := by
  cases sz
  · have := (f 0).isLt
    simpa [joinBytes, bitCount] using by omega
  · have := (f 0 ++ f 1).isLt
    show ((f 0 ++ f 1).setWidth 32).toNat < 2 ^ 16
    rw [BitVec.toNat_setWidth]
    exact lt_of_le_of_lt (Nat.mod_le _ _) this
  · exact (joinBytes .l f).isLt

end Sys2Proof.Machine
end

