-- ==== Sys2Proof/Tests/Slice0.lean ====
section
/-! SUPPORT. The model's own tests: ill-formed terms refused, words written out from the spec's encodings, single steps from
spec/95_test_vectors.md, and for every statement with hypotheses a concrete state that meets them. -/

namespace Sys2Proof.Tests

open Sys2Proof.Machine Sys2Proof.Machine.Claims

-- One theorem at a time: each is a kernel evaluation.
set_option Elab.async false

/-! ## WellFormed: for each check a term it refuses -/

/-- Data alterable, data, control, alterable, memory alterable, control alterable and the `MOVEM` lists, the byte size of an
address register, the branch conditions (30_encoding R121, R124). -/
theorem test_wf_refuses :
    [Instr.ori .w (.an 0), .ori .w .imm, .addi .b .pcDisp, .moveW (.an 1) (.dn 0), .moveB (.dn 0) (.an 1), .chk 0 (.an 0),
      .moveToSr (.an 3), .btstImm .imm, .btstImm (.an 0), .btstReg 0 (.an 0), .bsetReg 0 .pcIndex, .lea 0 (.dn 0),
      .lea 0 (.postinc 1), .pea .imm, .jmp (.predec 2), .jsr (.an 2), .addq 0 .b (.an 1), .subq 0 .w .imm, .scc .eq (.an 0),
      .movemToMem true (.postinc 0), .movemToMem true .pcDisp, .movemToRegs false (.predec 0), .movemToRegs false (.dn 0),
      .orDnEa 0 .w (.dn 1), .addDnEa 0 .w (.an 1), .addDnEa 0 .l .imm, .eor 0 .b (.an 0), .addEaDn 0 .b (.an 1),
      .cmp 0 .b (.an 1), .divu 0 (.an 1), .asrMem (.dn 0), .rolMem .pcDisp, .tst .l .pcDisp, .tas .imm, .bcc .t 0, .bcc .f 0].all
      (fun i => !i.wf) = true := by decide

/-- Their well-formed neighbours. -/
theorem test_wf_accepts :
    [Instr.ori .w (.dn 0), .moveW (.dn 1) (.an 0), .chk 0 .imm, .btstImm .pcDisp, .btstReg 0 .imm, .lea 0 .pcIndex,
      .addq 0 .w (.an 1), .movemToMem true (.predec 0), .movemToRegs true (.postinc 0), .movemToRegs true .pcDisp,
      .addDnEa 0 .w (.predec 1), .addEaDn 0 .w (.an 1), .cmp 0 .l (.an 1), .asrMem (.postinc 0), .bcc .hi 0].all
      (fun i => i.wf) = true := by decide

/-! ## Decoding: every constructor, its word written out field by field (30_encoding R150, and the rule of each) -/

def decodes (p : Half × Instr) : Bool :=
  match decode p.1 with
  | .ok i => i == p.2
  | .error _ => false

/-- Line 0: immediates `0000 oooo ss mmmrrr`, bit operations `0000 1000 oo mmmrrr` and `0000 nnn1 oo mmmrrr`, `MOVEP`. -/
theorem test_decode_line_0 :
    [(0x003C#16, Instr.oriToCcr), (0x007C#16, .oriToSr), (0x0018#16, .ori .b (.postinc 0)), (0x023C#16, .andiToCcr),
      (0x027C#16, .andiToSr), (0x0265#16, .andi .w (.predec 5)), (0x0A3C#16, .eoriToCcr), (0x0A7C#16, .eoriToSr),
      (0x0A82#16, .eori .l (.dn 2)), (0x0479#16, .subi .w .absL), (0x0613#16, .addi .b (.ind 3)),
      (0x0CAC#16, .cmpi .l (.disp 4)), (0x083A#16, .btstImm .pcDisp), (0x0841#16, .bchgImm (.dn 1)),
      (0x08B8#16, .bclrImm .absW), (0x08F6#16, .bsetImm (.index 6)), (0x073C#16, .btstReg 3 .imm),
      (0x0F50#16, .bchgReg 7 (.ind 0)), (0x0581#16, .bclrReg 2 (.dn 1)), (0x03DF#16, .bsetReg 1 (.postinc 7)),
      (0x070A#16, .movep 3 false false 2), (0x09CD#16, .movep 4 true true 5)].all decodes = true := by decide +kernel

/-- Lines 1, 2, 3: `MOVE`, `00ss RRRMMM mmmrrr`. -/
theorem test_decode_lines_1_2_3 :
    [(0x12BC#16, Instr.moveB (.ind 1) .imm), (0x3B7A#16, .moveW (.disp 5) .pcDisp), (0x3649#16, .moveaW 3 (.an 1)),
      (0x23F0#16, .moveL .absL (.index 0)), (0x2E5F#16, .moveaL 7 (.postinc 7))].all decodes = true := by decide +kernel

/-- Line 4: one word for each of the miscellaneous instructions. -/
theorem test_decode_line_4 :
    [(0x4027#16, Instr.negx .b (.predec 7)), (0x40D1#16, .moveFromSr (.ind 1)), (0x4BBC#16, .chk 5 .imm),
      (0x45FB#16, .lea 2 .pcIndex), (0x4298#16, .clr .l (.postinc 0)), (0x4446#16, .neg .w (.dn 6)), (0x44FC#16, .moveToCcr .imm),
      (0x4639#16, .notOp .b .absL), (0x46C3#16, .moveToSr (.dn 3)), (0x4824#16, .nbcd (.predec 4)), (0x4845#16, .swap 5),
      (0x4878#16, .pea .absW), (0x4887#16, .extW 7), (0x48C1#16, .extL 1), (0x48A7#16, .movemToMem false (.predec 7)),
      (0x48D2#16, .movemToMem true (.ind 2)), (0x4A6E#16, .tst .w (.disp 6)), (0x4AD0#16, .tas (.ind 0)),
      (0x4CDF#16, .movemToRegs true (.postinc 7)), (0x4E4F#16, .trap 15), (0x4E56#16, .link 6), (0x4E5D#16, .unlk 5),
      (0x4E64#16, .moveAnUsp 4), (0x4E6B#16, .moveUspAn 3), (0x4E70#16, .reset), (0x4E71#16, .nop), (0x4E72#16, .stop),
      (0x4E73#16, .rte), (0x4E75#16, .rts), (0x4E76#16, .trapv), (0x4E77#16, .rtr), (0x4EB9#16, .jsr .absL),
      (0x4EF4#16, .jmp (.index 4))].all decodes = true := by decide +kernel

/-- Lines 5, 6, 7: quick data, `Scc` and `DBcc`, branches, `MOVEQ`. -/
theorem test_decode_lines_5_6_7 :
    [(0x5E50#16, Instr.addq 7 .w (.ind 0)), (0x5188#16, .subq 0 .l (.an 0)),
      (0x5ECB#16, .dbcc .gt 3), (0x52E1#16, .scc .hi (.predec 1)), (0x60FF#16, .bra 0xFF), (0x6100#16, .bsr 0x00),
      (0x6D80#16, .bcc .lt 0x80), (0x7A7F#16, .moveq 5 0x7F)].all decodes = true := by decide +kernel

/-- Lines 8 and 9. -/
theorem test_decode_lines_8_9 :
    [(0x84FC#16, Instr.divu 2 .imm), (0x8BC1#16, .divs 5 (.dn 1)), (0x8709#16, .sbcd 3 .predec 1), (0x8C58#16, .orEaDn 6 .w (.postinc 0)),
      (0x8392#16, .orDnEa 1 .l (.ind 2)), (0x9048#16, .subEaDn 0 .w (.an 0)), (0x9B20#16, .subDnEa 5 .b (.predec 0)),
      (0x9EC0#16, .subaW 7 (.dn 0)), (0x93FC#16, .subaL 1 .imm), (0x9543#16, .subx 2 .w .regs 3)].all decodes = true := by
  decide +kernel

/-- Lines B and C. -/
theorem test_decode_lines_B_C :
    [(0xB68F#16, Instr.cmp 3 .l (.an 7)), (0xB4E8#16, .cmpaW 2 (.disp 0)), (0xB3F9#16, .cmpaL 1 .absL), (0xB941#16, .eor 4 .w (.dn 1)),
      (0xBD0F#16, .cmpm 6 .b 7), (0xC6C2#16, .mulu 3 (.dn 2)), (0xCBFC#16, .muls 5 .imm), (0xC504#16, .abcd 2 .regs 4),
      (0xC342#16, .exgDD 1 2), (0xC94D#16, .exgAA 4 5), (0xC78E#16, .exgDA 3 6), (0xC03C#16, .andEaDn 0 .b .imm),
      (0xCF79#16, .andDnEa 7 .w .absL)].all decodes = true := by decide +kernel

/-- Line D. -/
theorem test_decode_line_D :
    [(0xD67A#16, Instr.addEaDn 3 .w .pcDisp), (0xD398#16, .addDnEa 1 .l (.postinc 0)), (0xD8C9#16, .addaW 4 (.an 1)),
      (0xDDC5#16, .addaL 6 (.dn 5)), (0xD18A#16, .addx 0 .l .predec 2)].all decodes = true := by decide +kernel

/-- Line E: `1110 ccc d ss i tt rrr` and `1110 0tt d 11 mmmrrr` (43 R269). -/
theorem test_decode_line_E :
    [(0xE201#16, Instr.asrReg (.imm 1) .b 1), (0xE0D0#16, .asrMem (.ind 0)), (0xE162#16, .aslReg (.reg 0) .w 2),
      (0xE1F8#16, .aslMem .absW), (0xE68B#16, .lsrReg (.imm 3) .l 3), (0xE2DB#16, .lsrMem (.postinc 3)),
      (0xEFAC#16, .lslReg (.reg 7) .l 4), (0xE3E4#16, .lslMem (.predec 4)), (0xE015#16, .roxrReg (.imm 0) .b 5),
      (0xE4ED#16, .roxrMem (.disp 5)), (0xE576#16, .roxlReg (.reg 2) .w 6), (0xE5F6#16, .roxlMem (.index 6)),
      (0xE89F#16, .rorReg (.imm 4) .l 7), (0xE6F9#16, .rorMem .absL), (0xEB38#16, .rolReg (.reg 5) .b 0),
      (0xE7D7#16, .rolMem (.ind 7))].all decodes = true := by decide +kernel

/-- Words that are no instruction (30_encoding R153). -/
theorem test_decode_miss :
    [0xA000#16, 0xFFFF#16, 0x4AFC#16, 0x7300#16, 0x1008#16, 0x4E7B#16, 0x0E00#16, 0x42C0#16, 0x49C0#16, 0x4A7C#16, 0x4848#16, 0x4E74#16].all
      (fun w => decode w == .error .decodeMiss) = true := by decide +kernel

/-- The host's numbering: bit 0 is the least significant bit of the first word. -/
theorem test_table_word : decodeTableWord 32 0x0000203C = some (.moveL (.dn 0) .imm) := by decide +kernel

/-! ## Single steps from spec/95_test_vectors.md -/

/-- What a line of the tables sets or checks. -/
inductive Fact where
  | d (n : Reg) (v : Word)
  | a (n : Reg) (v : Word)
  | usp (v : Word)
  | ssp (v : Word)
  | isp (v : Word)
  | sr (v : Half)
  | pc (v : Word)
  | m (addr : Word) (sz : Size) (v : Word)
  | fault (r : Fault)
  | trap
  | stopped

def put (s : State) : Fact → State
  | .d n v => s.setD n v
  | .a n v => s.setA n v
  | .usp v => { s with usp := v }
  | .ssp v => { s with ssp := v }
  | .isp v => { s with isp := v }
  | .sr v => s.setSr (Status.ofWord v)
  | .pc v => s.setPc v
  | .m a sz v => { s with ram := s.ram.store (busAddr a) sz v }
  | .fault r => { s with fault := some r }
  | .trap => { s with trap := true }
  | .stopped => { s with stopped := true }

def holds (s : State) : Fact → Bool
  | .d n v => s.dreg n == v
  | .a n v => s.areg n == v
  | .usp v => s.usp == v
  | .ssp v => s.ssp == v
  | .isp v => s.isp == v
  | .sr v => s.sr.toWord == v
  | .pc v => s.pc == v
  | .m a sz v => (memRead s a sz).1 == v
  | .fault r => s.fault == some r
  | .trap => s.trap
  | .stopped => s.stopped

/-- The pre-state of the tables. -/
def before (ws : List Half) (pre : List Fact) : State :=
  pre.foldl put { State.reset with
    pc := 0x1000, isp := 0x8000, usp := 0x6000, ssp := 0x7000, ram := State.reset.ram.storeList 0x1000 (bytesOf ws) }

/-- One step from it leaves what the line says. -/
def line (ws : List Half) (pre post : List Fact) : Bool :=
  match step (before ws pre) with
  | .next t => post.all (holds t)
  | _ => false

/-- Line 244: `ORI #0xFF,CCR`. -/
theorem test_step_ori_to_ccr :
    line [0x003C, 0x00FF] [.sr 0x2700]
      [.pc 0x00001004, .sr 0x271F] = true := by decide +kernel

/-- Line 334: `ORI #0x0700,SR`. -/
theorem test_step_ori_to_sr :
    line [0x007C, 0x0700] [.sr 0x2000]
      [.pc 0x00001004, .sr 0x2700] = true := by decide +kernel

/-- Line 243: `ORI.L #0x80000000,D0`. -/
theorem test_step_ori :
    line [0x0080, 0x8000, 0x0000] [.sr 0x2700, .d 0 0x00000001]
      [.d 0 0x80000001, .pc 0x00001006, .sr 0x2708] = true := by decide +kernel

/-- Line 241: `ANDI #0x10,CCR`. -/
theorem test_step_andi_to_ccr :
    line [0x023C, 0x0010] [.sr 0x271F]
      [.pc 0x00001004, .sr 0x2710] = true := by decide +kernel

/-- Line 333: `ANDI #0xF8FF,SR`. -/
theorem test_step_andi_to_sr :
    line [0x027C, 0xF8FF] [.sr 0x2700]
      [.pc 0x00001004, .sr 0x2000] = true := by decide +kernel

/-- Line 240: `ANDI.B #0x0F,D0`. -/
theorem test_step_andi :
    line [0x0200, 0x000F] [.sr 0x2700, .d 0 0xABCDEF98]
      [.d 0 0xABCDEF08, .pc 0x00001004, .sr 0x2700] = true := by decide +kernel

/-- Line 247: `EORI #0x04,CCR`. -/
theorem test_step_eori_to_ccr :
    line [0x0A3C, 0x0004] [.sr 0x2704]
      [.pc 0x00001004, .sr 0x2700] = true := by decide +kernel

/-- Line 335: `EORI #0x2000,SR`. -/
theorem test_step_eori_to_sr :
    line [0x0A7C, 0x2000] [.sr 0x2000]
      [.pc 0x00001004, .sr 0x0000] = true := by decide +kernel

/-- Line 246: `EORI.B #0xFF,(A0)`. -/
theorem test_step_eori :
    line [0x0A10, 0x00FF] [.sr 0x2700, .a 0 0x00002000, .m 0x2000 .b 0xF]
      [.pc 0x00001004, .sr 0x2708, .m 0x2000 .b 0xF0] = true := by decide +kernel

/-- Line 212: `SUBI.B #1,D0`. -/
theorem test_step_subi :
    line [0x0400, 0x0001] [.sr 0x2700, .d 0 0x00000080]
      [.d 0 0x0000007F, .pc 0x00001004, .sr 0x2702] = true := by decide +kernel

/-- Line 202: `ADDI.L #0x10000,D0`. -/
theorem test_step_addi :
    line [0x0680, 0x0001, 0x0000] [.sr 0x2700, .d 0 0xFFFF0000]
      [.d 0 0x00000000, .pc 0x00001006, .sr 0x2715] = true := by decide +kernel

/-- Line 218: `CMPI.W #0x1234,D0`. -/
theorem test_step_cmpi :
    line [0x0C40, 0x1234] [.sr 0x2700, .d 0 0x00001234]
      [.pc 0x00001004, .sr 0x2704] = true := by decide +kernel

/-- Line 277: `BTST #33,D0`. -/
theorem test_step_btst_imm :
    line [0x0800, 0x0021] [.sr 0x2700, .d 0 0x00000002]
      [.pc 0x00001004, .sr 0x2700] = true := by decide +kernel

/-- Line 279: `BCHG #0,D0`. -/
theorem test_step_bchg_imm :
    line [0x0840, 0x0000] [.sr 0x2700, .d 0 0x00000000]
      [.d 0 0x00000001, .pc 0x00001004, .sr 0x2704] = true := by decide +kernel

/-- Line 281: `BSET #7,(A0)`. -/
theorem test_step_bset_imm :
    line [0x08D0, 0x0007] [.sr 0x2700, .a 0 0x00002000, .m 0x2000 .b 0x0]
      [.pc 0x00001004, .sr 0x2704, .m 0x2000 .b 0x80] = true := by decide +kernel

/-- Line 278: `BTST D1,(A0)`. -/
theorem test_step_btst_reg :
    line [0x0310] [.sr 0x2700, .d 1 0x0000000F, .a 0 0x00002000, .m 0x2000 .b 0x7F]
      [.pc 0x00001002, .sr 0x2704] = true := by decide +kernel

/-- Line 280: `BCLR D1,D0`. -/
theorem test_step_bclr_reg :
    line [0x0380] [.sr 0x2700, .d 0 0xFFFFFFFF, .d 1 0x0000001F]
      [.d 0 0x7FFFFFFF, .pc 0x00001002, .sr 0x2700] = true := by decide +kernel

/-- Line 181: `MOVEP.W D0,(0,A0)`. -/
theorem test_step_movep :
    line [0x0188, 0x0000] [.sr 0x2700, .d 0 0x0000ABCD, .a 0 0x00002000]
      [.pc 0x00001004, .sr 0x2700, .m 0x2000 .b 0xAB, .m 0x2002 .b 0xCD] = true := by decide +kernel

/-- Line 167: `MOVE.B D0,D1`. -/
theorem test_step_move_b :
    line [0x1200] [.sr 0x271F, .d 0 0x12345680, .d 1 0xAABBCCDD]
      [.d 1 0xAABBCC80, .pc 0x00001002, .sr 0x2718] = true := by decide +kernel

/-- Line 168: `MOVE.W #0,D0`. -/
theorem test_step_move_w :
    line [0x303C, 0x0000] [.sr 0x2700, .d 0 0xFFFFFFFF]
      [.d 0 0xFFFF0000, .pc 0x00001004, .sr 0x2704] = true := by decide +kernel

/-- Line 174: `MOVEA.W #0x8000,A0`. -/
theorem test_step_movea_w :
    line [0x307C, 0x8000] [.sr 0x271F]
      [.a 0 0xFFFF8000, .pc 0x00001004, .sr 0x271F] = true := by decide +kernel

/-- Line 169: `MOVE.L (A0)+,-(A1)`. -/
theorem test_step_move_l :
    line [0x2318] [.sr 0x2700, .a 0 0x00002000, .a 1 0x00003004, .m 0x2000 .l 0x80000001]
      [.a 0 0x00002004, .a 1 0x00003000, .pc 0x00001002, .sr 0x2708, .m 0x3000 .l 0x80000001] = true := by decide +kernel

/-- Line 175: `MOVEA.L D0,A7`. -/
theorem test_step_movea_l :
    line [0x2E40] [.sr 0x2700, .d 0 0x00004000]
      [.isp 0x00004000, .pc 0x00001002, .sr 0x2700] = true := by decide +kernel

/-- Line 223: `NEGX.B D0`. -/
theorem test_step_negx :
    line [0x4000] [.sr 0x2714, .d 0 0x00000000]
      [.d 0 0x000000FF, .pc 0x00001002, .sr 0x2719] = true := by decide +kernel

/-- Line 328: `MOVE SR,D0`. -/
theorem test_step_move_from_sr :
    line [0x40C0] [.sr 0x0015, .d 0 0xFFFFFFFF]
      [.d 0 0xFFFF0015, .pc 0x00001002, .sr 0x0015] = true := by decide +kernel

/-- Line 345: `CHK D0,D1 (inside)`. -/
theorem test_step_chk :
    line [0x4380] [.sr 0x2700, .d 0 0x0000000A, .d 1 0x0000000A]
      [.pc 0x00001002] = true := by decide +kernel

/-- Line 184: `LEA (0x12345,A0,D1.L*2),A1`. -/
theorem test_step_lea :
    line [0x43F0, 0x1B30, 0x0001, 0x2345] [.sr 0x2700, .a 0 0x00002000, .d 1 0x00000010]
      [.a 1 0x00014365, .pc 0x00001008, .sr 0x2700] = true := by decide +kernel

/-- Line 220: `CLR.W D0`. -/
theorem test_step_clr :
    line [0x4240] [.sr 0x271F, .d 0 0xFFFFFFFF]
      [.d 0 0xFFFF0000, .pc 0x00001002, .sr 0x2714] = true := by decide +kernel

/-- Line 221: `NEG.B D0`. -/
theorem test_step_neg :
    line [0x4400] [.sr 0x2700, .d 0 0x00000080]
      [.pc 0x00001002, .sr 0x271B] = true := by decide +kernel

/-- Line 327: `MOVE D0,CCR`. -/
theorem test_step_move_to_ccr :
    line [0x44C0] [.sr 0x2700, .d 0 0x0000FFFF]
      [.pc 0x00001002, .sr 0x271F] = true := by decide +kernel

/-- Line 248: `NOT.W D0`. -/
theorem test_step_not_op :
    line [0x4640] [.sr 0x2700, .d 0 0x1234FFFF]
      [.d 0 0x12340000, .pc 0x00001002, .sr 0x2704] = true := by decide +kernel

/-- Line 329: `MOVE D0,SR`. -/
theorem test_step_move_to_sr :
    line [0x46C0] [.sr 0x2700, .d 0 0x0000FFFF]
      [.pc 0x00001002, .sr 0xB71F] = true := by decide +kernel

/-- Line 292: `NBCD D0`. -/
theorem test_step_nbcd :
    line [0x4800] [.sr 0x2704, .d 0 0x00000025]
      [.d 0 0x00000075, .pc 0x00001002] = true := by decide +kernel

/-- Line 271: `SWAP D0`. -/
theorem test_step_swap :
    line [0x4840] [.sr 0x2700, .d 0 0x00008000]
      [.d 0 0x80000000, .pc 0x00001002, .sr 0x2708] = true := by decide +kernel

/-- Line 188: `PEA (0x1234).W`. -/
theorem test_step_pea :
    line [0x4878, 0x1234] [.sr 0x2700]
      [.isp 0x00007FFC, .pc 0x00001004, .sr 0x2700, .m 0x7FFC .l 0x1234] = true := by decide +kernel

/-- Line 224: `EXT.W D0`. -/
theorem test_step_ext_w :
    line [0x4880] [.sr 0x2700, .d 0 0x12340080]
      [.d 0 0x1234FF80, .pc 0x00001002, .sr 0x2708] = true := by decide +kernel

/-- Line 225: `EXT.L D0`. -/
theorem test_step_ext_l :
    line [0x48C0] [.sr 0x2700, .d 0 0x12347FFF]
      [.d 0 0x00007FFF, .pc 0x00001002, .sr 0x2700] = true := by decide +kernel

/-- Line 178: `MOVEM.L D0-D1/A0,-(A7)`. -/
theorem test_step_movem_to_mem :
    line [0x48E7, 0xC080] [.sr 0x2700, .d 0 0x11111111, .d 1 0x22222222, .a 0 0x33333333]
      [.isp 0x00007FF4, .pc 0x00001004, .sr 0x2700, .m 0x7FFC .l 0x33333333, .m 0x7FF8 .l 0x22222222, .m 0x7FF4 .l 0x11111111] = true := by decide +kernel

/-- Line 320: `TST.W D0`. -/
theorem test_step_tst :
    line [0x4A40] [.sr 0x2713, .d 0 0x00008000]
      [.pc 0x00001002, .sr 0x2718] = true := by decide +kernel

/-- Line 350: `TAS D0`. -/
theorem test_step_tas :
    line [0x4AC0] [.sr 0x2700, .d 0 0x00000000]
      [.d 0 0x00000080, .pc 0x00001002, .sr 0x2704] = true := by decide +kernel

/-- Line 179: `MOVEM.W (A0)+,D0-D1`. -/
theorem test_step_movem_to_regs :
    line [0x4C98, 0x0003] [.sr 0x2700, .a 0 0x00002000, .m 0x2000 .w 0x8001, .m 0x2002 .w 0x7FFF]
      [.d 0 0xFFFF8001, .d 1 0x00007FFF, .a 0 0x00002004, .pc 0x00001004, .sr 0x2700] = true := by decide +kernel

/-- Line 339: `TRAP #1`. -/
theorem test_step_trap :
    line [0x4E41] [.sr 0x0000, .m 0x84 .l 0x2000]
      [.isp 0x00007FF8, .pc 0x00002000, .sr 0x2000, .m 0x7FFE .w 0x1084, .m 0x7FFA .l 0x1002, .m 0x7FF8 .w 0x0, .trap] = true := by decide +kernel

/-- Line 190: `LINK A6,#-8`. -/
theorem test_step_link :
    line [0x4E56, 0xFFF8] [.sr 0x2700, .a 6 0x0000BEEF]
      [.a 6 0x00007FFC, .isp 0x00007FF4, .pc 0x00001004, .sr 0x2700, .m 0x7FFC .l 0xBEEF] = true := by decide +kernel

/-- Line 191: `UNLK A6`. -/
theorem test_step_unlk :
    line [0x4E5E] [.sr 0x2700, .a 6 0x00007FFC, .m 0x7FFC .l 0xBEEF, .isp 0x00007FF4]
      [.a 6 0x0000BEEF, .isp 0x00008000, .pc 0x00001002, .sr 0x2700] = true := by decide +kernel

/-- Line 336: `MOVE A0,USP`. -/
theorem test_step_move_an_usp :
    line [0x4E60] [.sr 0x2700, .a 0 0x00005000]
      [.usp 0x00005000, .pc 0x00001002, .sr 0x2700] = true := by decide +kernel

/-- Line 337: `MOVE USP,A1`. -/
theorem test_step_move_usp_an :
    line [0x4E69] [.sr 0x2700]
      [.a 1 0x00006000, .pc 0x00001002, .sr 0x2700] = true := by decide +kernel

/-- Line 353: `RESET`. -/
theorem test_step_reset :
    line [0x4E70] [.sr 0x2700]
      [.fault .resetInstruction] = true := by decide +kernel

/-- Line 317: `NOP`. -/
theorem test_step_nop :
    line [0x4E71] [.sr 0x271F]
      [.pc 0x00001002, .sr 0x271F] = true := by decide +kernel

/-- Line 352: `STOP #0x2300`. -/
theorem test_step_stop :
    line [0x4E72, 0x2300] [.sr 0x2700]
      [.pc 0x00001004, .sr 0x2300, .stopped] = true := by decide +kernel

/-- Line 346: `RTE`. -/
theorem test_step_rte :
    line [0x4E73] [.sr 0x2700, .isp 0x00007FF8, .m 0x7FF8 .w 0x15, .m 0x7FFA .l 0x4000, .m 0x7FFE .w 0x1084]
      [.isp 0x00008000, .pc 0x00004000, .sr 0x0015] = true := by decide +kernel

/-- Line 318: `RTS`. -/
theorem test_step_rts :
    line [0x4E75] [.sr 0x2700, .isp 0x00007FFC, .m 0x7FFC .l 0x4444]
      [.isp 0x00008000, .pc 0x00004444, .sr 0x2700] = true := by decide +kernel

/-- Line 341: `TRAPV (V=1)`. -/
theorem test_step_trapv :
    line [0x4E76] [.sr 0x2002, .m 0x1C .l 0x2000]
      [.isp 0x00007FF8, .pc 0x00002000, .sr 0x2002, .m 0x7FFE .w 0x101C, .m 0x7FFA .l 0x1002, .m 0x7FF8 .w 0x2002, .trap] = true := by decide +kernel

/-- Line 319: `RTR`. -/
theorem test_step_rtr :
    line [0x4E77] [.sr 0x2700, .isp 0x00007FFA, .m 0x7FFA .w 0xFFFF, .m 0x7FFC .l 0x4444]
      [.isp 0x00008000, .pc 0x00004444, .sr 0x271F] = true := by decide +kernel

/-- Line 316: `JSR (0x2000).L`. -/
theorem test_step_jsr :
    line [0x4EB9, 0x0000, 0x2000] [.sr 0x2700]
      [.isp 0x00007FFC, .pc 0x00002000, .sr 0x2700, .m 0x7FFC .l 0x1006] = true := by decide +kernel

/-- Line 314: `JMP (A0)`. -/
theorem test_step_jmp :
    line [0x4ED0] [.sr 0x2700, .a 0 0x00123456]
      [.pc 0x00123456, .sr 0x2700] = true := by decide +kernel

/-- Line 203: `ADDQ.B #8,D0`. -/
theorem test_step_addq :
    line [0x5000] [.sr 0x2700, .d 0 0x000000F8]
      [.d 0 0x00000000, .pc 0x00001002, .sr 0x2715] = true := by decide +kernel

/-- Line 213: `SUBQ.L #1,D0`. -/
theorem test_step_subq :
    line [0x5380] [.sr 0x2700, .d 0 0x00000001]
      [.d 0 0x00000000, .pc 0x00001002, .sr 0x2704] = true := by decide +kernel

/-- Line 309: `DBF D0,-2 (taken)`. -/
theorem test_step_dbcc :
    line [0x51C8, 0xFFFE] [.sr 0x2700, .d 0 0x00010002]
      [.d 0 0x00010001, .sr 0x2700, .pc 0x00001000] = true := by decide +kernel

/-- Line 312: `SEQ D0`. -/
theorem test_step_scc :
    line [0x57C0] [.sr 0x2704, .d 0 0x12345678]
      [.d 0 0x123456FF, .pc 0x00001002, .sr 0x2704] = true := by decide +kernel

/-- Line 305: `BRA.S -2`. -/
theorem test_step_bra :
    line [0x60FE] [.sr 0x2700]
      [.sr 0x2700, .pc 0x00001000] = true := by decide +kernel

/-- Line 306: `BSR.S +6`. -/
theorem test_step_bsr :
    line [0x6106] [.sr 0x2700]
      [.isp 0x00007FFC, .pc 0x00001008, .sr 0x2700, .m 0x7FFC .l 0x1002] = true := by decide +kernel

/-- Line 299: `BEQ.S +4 (taken)`. -/
theorem test_step_bcc :
    line [0x6704] [.sr 0x2704]
      [.pc 0x00001006, .sr 0x2704] = true := by decide +kernel

/-- Line 176: `MOVEQ #-1,D3`. -/
theorem test_step_moveq :
    line [0x76FF] [.sr 0x2700]
      [.d 3 0xFFFFFFFF, .pc 0x00001002, .sr 0x2708] = true := by decide +kernel

/-- Line 228: `DIVU.W D0,D1`. -/
theorem test_step_divu :
    line [0x82C0] [.sr 0x2700, .d 0 0x00000007, .d 1 0x00000064]
      [.d 1 0x0002000E, .pc 0x00001002, .sr 0x2700] = true := by decide +kernel

/-- Line 231: `DIVS.W D0,D1`. -/
theorem test_step_divs :
    line [0x83C0] [.sr 0x2700, .d 0 0x00000002, .d 1 0xFFFFFFF9]
      [.d 1 0xFFFFFFFD, .pc 0x00001002, .sr 0x2708] = true := by decide +kernel

/-- Line 290: `SBCD D0,D1`. -/
theorem test_step_sbcd :
    line [0x8300] [.sr 0x2704, .d 0 0x00000001, .d 1 0x00000000]
      [.d 1 0x00000099, .pc 0x00001002] = true := by decide +kernel

/-- Line 242: `OR.B D0,D1`. -/
theorem test_step_or_ea_dn :
    line [0x8200] [.sr 0x2700, .d 0 0x00000080, .d 1 0x00000001]
      [.d 1 0x00000081, .pc 0x00001002, .sr 0x2708] = true := by decide +kernel

/-- Line 226: `MULU.W D0,D1`. -/
theorem test_step_mulu :
    line [0xC2C0] [.sr 0x2700, .d 0 0x0000FFFF, .d 1 0x1234FFFF]
      [.d 1 0xFFFE0001, .pc 0x00001002, .sr 0x2708] = true := by decide +kernel

/-- Line 227: `MULS.W D0,D1`. -/
theorem test_step_muls :
    line [0xC3C0] [.sr 0x2700, .d 0 0x0000FFFF, .d 1 0x00000002]
      [.d 1 0xFFFFFFFE, .pc 0x00001002, .sr 0x2708] = true := by decide +kernel

/-- Line 288: `ABCD D0,D1`. -/
theorem test_step_abcd :
    line [0xC300] [.sr 0x2704, .d 0 0x00000001, .d 1 0x00000099]
      [.d 1 0x00000000, .pc 0x00001002] = true := by decide +kernel

/-- Line 189: `EXG D0,A0`. -/
theorem test_step_exg_d_a :
    line [0xC188] [.sr 0x2700, .d 0 0x11111111, .a 0 0x22222222]
      [.d 0 0x22222222, .a 0 0x11111111, .pc 0x00001002, .sr 0x2700] = true := by decide +kernel

/-- Line 238: `AND.W D0,D1`. -/
theorem test_step_and_ea_dn :
    line [0xC240] [.sr 0x271F, .d 0 0xFF00F0F0, .d 1 0x1234FFFF]
      [.d 1 0x1234F0F0, .pc 0x00001002, .sr 0x2718] = true := by decide +kernel

/-- Line 239: `AND.L D0,(A0)`. -/
theorem test_step_and_dn_ea :
    line [0xC190] [.sr 0x2700, .d 0 0x0000FFFF, .a 0 0x00002000, .m 0x2000 .l 0xFFFF0000]
      [.pc 0x00001002, .sr 0x2704, .m 0x2000 .l 0x0] = true := by decide +kernel

/-- Line 208: `SUB.B D0,D1`. -/
theorem test_step_sub_ea_dn :
    line [0x9200] [.sr 0x2700, .d 0 0x00000001, .d 1 0x00000000]
      [.d 1 0x000000FF, .pc 0x00001002, .sr 0x2719] = true := by decide +kernel

/-- Line 210: `SUB.L D0,(A0)`. -/
theorem test_step_sub_dn_ea :
    line [0x9190] [.sr 0x2700, .d 0 0x00000005, .a 0 0x00002000, .m 0x2000 .l 0x5]
      [.pc 0x00001002, .sr 0x2704, .m 0x2000 .l 0x0] = true := by decide +kernel

/-- Line 211: `SUBA.L D0,A0`. -/
theorem test_step_suba_l :
    line [0x91C0] [.sr 0x2700, .d 0 0x00000001, .a 0 0x00000000]
      [.a 0 0xFFFFFFFF, .pc 0x00001002, .sr 0x2700] = true := by decide +kernel

/-- Line 214: `SUBX.B D0,D1`. -/
theorem test_step_subx :
    line [0x9300] [.sr 0x2714, .d 0 0x00000000, .d 1 0x00000000]
      [.d 1 0x000000FF, .pc 0x00001002, .sr 0x2719] = true := by decide +kernel

/-- Line 197: `ADD.B D0,D1`. -/
theorem test_step_add_ea_dn :
    line [0xD200] [.sr 0x2700, .d 0 0x00000001, .d 1 0x1234567F]
      [.d 1 0x12345680, .pc 0x00001002, .sr 0x270A] = true := by decide +kernel

/-- Line 199: `ADD.W D0,(A0)`. -/
theorem test_step_add_dn_ea :
    line [0xD150] [.sr 0x2700, .d 0 0x00008000, .a 0 0x00002000, .m 0x2000 .w 0x8000]
      [.pc 0x00001002, .sr 0x2717, .m 0x2000 .w 0x0] = true := by decide +kernel

/-- Line 201: `ADDA.W D0,A0`. -/
theorem test_step_adda_w :
    line [0xD0C0] [.sr 0x271F, .d 0 0x0000FFFF, .a 0 0x00001000]
      [.a 0 0x00000FFF, .pc 0x00001002, .sr 0x271F] = true := by decide +kernel

/-- Line 205: `ADDX.B D0,D1`. -/
theorem test_step_addx :
    line [0xD300] [.sr 0x2714, .d 0 0x00000000, .d 1 0x00000000]
      [.d 1 0x00000001, .pc 0x00001002, .sr 0x2700] = true := by decide +kernel

/-- Line 215: `CMP.L D0,D1`. -/
theorem test_step_cmp :
    line [0xB280] [.sr 0x2710, .d 0 0x00000002, .d 1 0x00000001]
      [.pc 0x00001002, .sr 0x2719] = true := by decide +kernel

/-- Line 217: `CMPA.W D0,A0`. -/
theorem test_step_cmpa_w :
    line [0xB0C0] [.sr 0x2700, .d 0 0x0000FFFF, .a 0 0xFFFFFFFF]
      [.pc 0x00001002, .sr 0x2704] = true := by decide +kernel

/-- Line 245: `EOR.W D0,D1`. -/
theorem test_step_eor :
    line [0xB141] [.sr 0x2700, .d 0 0x0000FFFF, .d 1 0x0000FFFF]
      [.d 1 0x00000000, .pc 0x00001002, .sr 0x2704] = true := by decide +kernel

/-- Line 219: `CMPM.B (A0)+,(A1)+`. -/
theorem test_step_cmpm :
    line [0xB308] [.sr 0x2700, .a 0 0x00002000, .a 1 0x00003000, .m 0x2000 .b 0x5, .m 0x3000 .b 0x5]
      [.a 0 0x00002001, .a 1 0x00003001, .pc 0x00001002, .sr 0x2704] = true := by decide +kernel

/-- Line 257: `ASR.B #8,D0`. -/
theorem test_step_asr_reg :
    line [0xE000] [.sr 0x2700, .d 0 0x00000080]
      [.d 0 0x000000FF, .pc 0x00001002, .sr 0x2719] = true := by decide +kernel

/-- Line 254: `ASL.B #1,D0`. -/
theorem test_step_asl_reg :
    line [0xE300] [.sr 0x2700, .d 0 0x00000040]
      [.d 0 0x00000080, .pc 0x00001002, .sr 0x270A] = true := by decide +kernel

/-- Line 269: `ASL.W (A0)`. -/
theorem test_step_asl_mem :
    line [0xE1D0] [.sr 0x2700, .a 0 0x00002000, .m 0x2000 .w 0x4000]
      [.pc 0x00001002, .sr 0x270A, .m 0x2000 .w 0x8000] = true := by decide +kernel

/-- Line 262: `LSR.W #8,D0`. -/
theorem test_step_lsr_reg :
    line [0xE048] [.sr 0x2700, .d 0 0x1234FF80]
      [.d 0 0x123400FF, .pc 0x00001002, .sr 0x2711] = true := by decide +kernel

/-- Line 270: `LSR.W (A0)`. -/
theorem test_step_lsr_mem :
    line [0xE2D0] [.sr 0x2700, .a 0 0x00002000, .m 0x2000 .w 0x1]
      [.pc 0x00001002, .sr 0x2715, .m 0x2000 .w 0x0] = true := by decide +kernel

/-- Line 259: `LSL.L D1,D0`. -/
theorem test_step_lsl_reg :
    line [0xE3A8] [.sr 0x2700, .d 0 0xFFFFFFFF, .d 1 0x00000021]
      [.d 0 0x00000000, .pc 0x00001002, .sr 0x2704] = true := by decide +kernel

/-- Line 267: `ROXR.W D1,D0`. -/
theorem test_step_roxr_reg :
    line [0xE270] [.sr 0x2710, .d 0 0x00001234, .d 1 0x00000000]
      [.pc 0x00001002, .sr 0x2711] = true := by decide +kernel

/-- Line 266: `ROXL.B #1,D0`. -/
theorem test_step_roxl_reg :
    line [0xE310] [.sr 0x2710, .d 0 0x00000080]
      [.d 0 0x00000001, .pc 0x00001002, .sr 0x2711] = true := by decide +kernel

/-- Line 264: `ROR.B #1,D0`. -/
theorem test_step_ror_reg :
    line [0xE218] [.sr 0x2700, .d 0 0x00000001]
      [.d 0 0x00000080, .pc 0x00001002, .sr 0x2709] = true := by decide +kernel

/-- Line 263: `ROL.W #1,D0`. -/
theorem test_step_rol_reg :
    line [0xE358] [.sr 0x2710, .d 0 0x00008000]
      [.d 0 0x00000001, .pc 0x00001002, .sr 0x2711] = true := by decide +kernel

/-- Line 186: `LEA (A0,D1.L) full, null bd`. -/
theorem test_step_lea_null_displacement :
    line [0x43F0, 0x1910] [.sr 0x2700, .a 0 0x00002000]
      [.fault .unsupportedExtensionWord] = true := by decide +kernel

/-- Line 348: `RTE (format 2)`. -/
theorem test_step_rte_bad_format :
    line [0x4E73] [.sr 0x2700, .isp 0x00007FF8, .m 0x7FF8 .w 0x2000, .m 0x7FFA .l 0x4000, .m 0x7FFE .w 0x2084]
      [.fault .badFrameFormat] = true := by decide +kernel

/-- Line 349: `RTE (user)`. -/
theorem test_step_rte_in_user_mode :
    line [0x4E73] [.sr 0x0000, .m 0x20 .l 0x3000]
      [.isp 0x00007FF8, .pc 0x00003000, .sr 0x2000, .m 0x7FFE .w 0x1024, .m 0x7FFA .l 0x1000, .m 0x7FF8 .w 0x0, .trap] = true := by decide +kernel
/-! From the rules' own examples and the operations they state. -/

/-- 44 R283: bit 8 of a byte is bit 0. -/
theorem test_step_bclr_imm :
    line [0x0890, 0x0008] [.a 0 0x2000, .m 0x2000 .b 0x03] [.m 0x2000 .b 0x02, .sr 0x2700, .pc 0x1004] = true := by
  decide +kernel

/-- 44 R282. -/
theorem test_step_bchg_reg :
    line [0x0340] [.d 0 0x00000001, .d 1 0x00000020] [.d 0 0, .sr 0x2700] = true := by decide +kernel

/-- 44 R284. -/
theorem test_step_bset_reg :
    line [0x03C0] [.d 0 0, .d 1 0x0000003F] [.d 0 0x80000000, .sr 0x2704] = true := by decide +kernel

/-- 42 R245's example. -/
theorem test_step_or_dn_ea :
    line [0x8190] [.d 0 0x80000000, .a 0 0x2000, .m 0x2000 .l 0x00000001] [.m 0x2000 .l 0x80000001, .sr 0x2708] = true := by
  decide +kernel

/-- 40 R179. -/
theorem test_step_exg_dd : line [0xC141] [.d 0 1, .d 1 2] [.d 0 2, .d 1 1, .sr 0x2700] = true := by decide +kernel

/-- 40 R179, with the active stack pointer. -/
theorem test_step_exg_aa : line [0xC14F] [.a 0 1] [.a 0 0x8000, .isp 1, .usp 0x6000] = true := by decide +kernel

/-- 41 R212: a word source is sign-extended. -/
theorem test_step_suba_w : line [0x90C0] [.d 0 0xFFFF, .a 0 0] [.a 0 1, .sr 0x2700] = true := by decide +kernel

/-- 41 R202. -/
theorem test_step_adda_l : line [0xD1C0] [.d 0 0xFFFF, .a 0 1] [.a 0 0x10000, .sr 0x2700] = true := by decide +kernel

/-- 41 R218's example. -/
theorem test_step_cmpa_l : line [0xB1C9] [.a 0 0x1000, .a 1 0x2000] [.a 0 0x1000, .sr 0x2709] = true := by decide +kernel

/-- 43 R261. -/
theorem test_step_asr_mem : line [0xE0D0] [.a 0 0x2000, .m 0x2000 .w 0x8001] [.m 0x2000 .w 0xC000, .sr 0x2719] = true := by
  decide +kernel

/-- 43 R262. -/
theorem test_step_lsl_mem : line [0xE3D0] [.a 0 0x2000, .m 0x2000 .w 0x8001] [.m 0x2000 .w 0x0002, .sr 0x2711] = true := by
  decide +kernel

/-- 43 R267: the old `X` enters at the top. -/
theorem test_step_roxr_mem :
    line [0xE4D0] [.sr 0x2710, .a 0 0x2000, .m 0x2000 .w 0x0002] [.m 0x2000 .w 0x8001, .sr 0x2708] = true := by decide +kernel

/-- 43 R266: the old `X` enters at the bottom. -/
theorem test_step_roxl_mem :
    line [0xE5D0] [.sr 0x2710, .a 0 0x2000, .m 0x2000 .w 0x8000] [.m 0x2000 .w 0x0001, .sr 0x2711] = true := by decide +kernel

/-- 43 R265: `X` is kept. -/
theorem test_step_ror_mem :
    line [0xE6D0] [.sr 0x2710, .a 0 0x2000, .m 0x2000 .w 0x0001] [.m 0x2000 .w 0x8000, .sr 0x2719] = true := by decide +kernel

/-- 43 R264: `X` is kept. -/
theorem test_step_rol_mem : line [0xE7D0] [.a 0 0x2000, .m 0x2000 .w 0x8001] [.m 0x2000 .w 0x0003, .sr 0x2701] = true := by
  decide +kernel

/-! ## Devices (95 part 1) -/

/-- Property 5. -/
theorem test_irq_priority :
    let m0 : Mfp := { Mfp.cold with ier := 0xFFFF, imr := 0xFFFF, ipr := 0x2020, vr := 0x40 }
    (m0.irqCause.2, m0.irqCause.1.ipr, m0.irqCause.1.irqCause.2, m0.irqCause.1.irqCause.1.irqCause.2) =
      (0x4D#8, 0x0020#16, 0x45#8, 0x18#8) := by decide +kernel

/-- Property 6, third and sixth lines. -/
theorem test_volume :
    let d (mask data : Half) := ({ Dac.cold with mwMask := mask }.store 0x22 .w (data.setWidth 32)).mainVolume
    (d 0x0FFE 0x09A8, d 0x0FFC 0x09A8, d 0x0FFE 0x0981) = (32#8, 64#8, 0#8) := by decide +kernel

/-- Property 7, the first line: three advances, then the end. -/
theorem test_dma_end :
    let s : State := { State.reset with
      mfp := { Mfp.cold with ier := 0x8000 }
      dac := { Dac.cold with
        dmaBegin := 0x2000, dmaCurrent := 0x2000, dmaEnd := 0x2008, dmaDivider := 0, dmaActive := true } }
    ((dmaRun 3 s).dac.dmaCurrent, (dmaRun 3 s).mfp.ipr, (dmaRun 4 s).dac.dmaCurrent, (dmaRun 4 s).dac.dmaActive,
      (dmaRun 4 s).mfp.ipr, (dmaRun 4 s).mfp.timerA.eventFlag) =
      (0x2006#24, 0#16, 0x2000#24, false, 0x8000#16, true) := by decide +kernel

/-- Property 2: the 47th and 48th ticks of the MFP's clock are 14 calls apart. -/
theorem test_clock :
    ((ticks 610 (ClockManager.cold 32000000 2457600)).2, (ticks 611 (ClockManager.cold 32000000 2457600)).2,
      (ticks 624 (ClockManager.cold 32000000 2457600)).2, (ticks 625 (ClockManager.cold 32000000 2457600)).2) =
      (46, 47, 47, 48) := by decide +kernel

/-- 63 R575: a mask read of a transaction returns the mask turned left by one; a byte read of it counts too. -/
theorem test_mask_read :
    let s : State := { State.reset with dac := { Dac.cold with mwMask := 0x8FFE, mwCycles := 2 } }
    let a := memRead s 0x00FF8924 .w
    let b := memRead a.2 0x00FF8925 .b
    let c := memRead b.2 0x00FF8924 .w
    (a.1, b.1, c.1, c.2.dac.mwCycles) = (0x1FFD#32, 0xFA#32, 0x3FFA#32, 0) := by decide +kernel

/-- 61 R493: `controlBits` is the code, for timer C as for timer D its bits 2:0 (log 32), and each timer is changed alone. -/
theorem test_configureTimer :
    let run (t : TimerIndex) := match Mfp.cold.configureTimer t 200 0x35 with
      | .ok m => (m.timerC.control, m.timerC.counter, m.timerD.control, m.timerD.counter, m.timerA.control)
      | .error _ => (0, 0, 0, 0, 0)
    run .a = (0, 0, 0, 0, 5) ∧ run .c = (5, 200, 0, 0, 0) ∧ run .d = (0, 0, 5, 200, 0) := by decide +kernel

/-- The kernel can run the first instruction after reset (log 14). -/
theorem test_first_step :
    (match step (State.reset.withFetchWord 16 0x7005) with
      | .next t => t.dreg 0 == 5
      | _ => false) = true := by decide +kernel

/-! ## Witnesses: concrete states that meet the hypotheses of each statement -/

def okBut {α : Type} (r : EStateM.Result Stop State α) (p : α → State → Bool) : Bool :=
  match r with
  | .ok a t => p a t
  | .error _ _ => false

def isOk {α : Type} (r : EStateM.Result Stop State α) : Bool := okBut r (fun _ _ => true)

def nextWith (o : Host.Outcome State Fault Refusal) (p : State → Bool) : Bool :=
  match o with
  | .next t => p t
  | _ => false

def refusedWith (o : Host.Outcome State Fault Refusal) (r : Refusal) : Bool :=
  match o with
  | .refused q => q == r
  | _ => false

/-- 10_state R51: reset values are configuration; a timer code that cannot be stored is none of them (log 30). -/
theorem test_construct_configured :
    let r := ResetValues.standard Params.standard
    nextWith (construct Params.standard { r with sr := Status.ofWord 0x2300, dac := { Dac.cold with mainVolume := 20 } })
      (fun t => t.sr.toWord == 0x2300 && t.dac.mainVolume == 20) = true ∧
    refusedWith (construct Params.standard { r with mfp := { Mfp.cold with timerA := { Timer.cold with control := 9 } } })
      .parameterOutOfRange = true := by decide +kernel

def storeOk (r : Except Refusal State) : Bool :=
  match r with
  | .ok _ => true
  | .error _ => false

/-- The hypotheses of `Changes` for the operand `e` resolved from `s0`. -/
def changeable (e : Ea) (sz : Size) (s0 : State) (res : Word → Word) : Bool :=
  okBut (resolve e sz s0) (fun loc s1 =>
    isOk (writeLoc loc sz (res (readLocFrom s1 loc sz).1) (readLocFrom s1 loc sz).2))

/-- The same after an immediate. -/
def changeableImm (e : Ea) (sz : Size) (s : State) (res : Word → Word → Word) : Bool :=
  okBut (fetchImm sz s) (fun v s0 => changeable e sz s0 (res v))

/-- Pointers into RAM (its last word among them), data in `D0` and `D1`. -/
def ws : State :=
  before [0x4E71, 0x0004, 0x0006] [.d 0 0xFFFF8081, .d 1 0x00000099, .a 0 0x2000, .a 1 0x007FFFFE, .a 2 0x3000,
    .m 0x2000 .l 0x12345678, .m 0x7FFFFE .w 0x9988]

/-- The same state in user mode. -/
def wu : State := put ws (.sr 0x001F)

/-- `ws` past its first word, as `exec` sees it. -/
def we : State := (fetchWord ws).2

/-- The CPU neither waits nor is interrupted nor has a fault. -/
def quiet (s : State) : Bool :=
  s.fault.isNone && !decide (s.mfp.ipr &&& s.mfp.imr ≠ 0) && !s.stopped && s.pc != s.params.hostReturnAddress

theorem quiet_meets {s : State} (h : quiet s = true) :
    s.fault = none ∧ ¬ requested s ∧ s.stopped = false ∧ s.pc ≠ s.params.hostReturnAddress := by
  simp only [quiet, Bool.and_eq_true, Option.isNone_iff_eq_none, Bool.not_eq_true', decide_eq_false_iff_not, bne_iff_ne] at h
  exact ⟨h.1.1.1, fun hr => h.1.1.2 hr.1, h.1.2, h.2⟩

theorem witness_DecodeOfEncode : (Instr.moveL .absL (.index 7)).wf = true ∧ (Instr.trap 15).wf = true := by decide

theorem witness_EncodeOfDecode : decode 0x23F7 = .ok (.moveL .absL (.index 7)) := by decide +kernel

/-- An instruction that ends, one that is refused, and one with `T = 1`. -/
theorem witness_StepRunsInstruction :
    quiet ws = true ∧ ws.sr.t = false ∧ decode (fetchWord { ws with trap := false }).1 = .ok .nop ∧
    nextWith (exec .nop (fetchWord { ws with trap := false }).2) (fun _ => true) = true ∧
    quiet (put ws (.sr 0xA700)) = true ∧ (put ws (.sr 0xA700)).sr.t = true := by decide +kernel

theorem witness_StepRunsInstruction_refused :
    let s := before [0x11C0, 0xFA19] [.d 0 9]
    quiet s = true ∧ decode (fetchWord { s with trap := false }).1 = .ok (.moveB .absW (.dn 0)) ∧
    (match exec (.moveB .absW (.dn 0)) (fetchWord { s with trap := false }).2 with
      | .refused r => r == .pwmModeUnspecified
      | _ => false) = true := by decide +kernel

theorem witness_DecodeMissLatchesFault :
    quiet (before [0x4AFC] []) = true ∧ decode (fetchWord (before [0x4AFC] [])).1 = .error .decodeMiss ∧
    [0xA000#16, 0xAFFF#16, 0xF000#16, 0xFFFF#16].all (fun w => w.toNat / 0x1000 == 10 || w.toNat / 0x1000 == 15) = true := by
  decide +kernel

theorem witness_FaultIsSticky : (put ws (.fault .decodeMiss)).fault = some .decodeMiss := by decide +kernel

theorem witness_WaitingFetchesNothing :
    (put ws .stopped).fault = none ∧ (put ws .stopped).stopped = true ∧ (put ws .stopped).mfp.ipr = 0 ∧
    (put ws (.pc 0xFFFFFFFC)).fault = none ∧ (put ws (.pc 0xFFFFFFFC)).mfp.ipr = 0 ∧
    (put ws (.pc 0xFFFFFFFC)).pc = (put ws (.pc 0xFFFFFFFC)).params.hostReturnAddress := by decide +kernel

/-- With nothing pending nothing is requested. -/
theorem not_requested {s : State} (h : s.mfp.ipr = 0) : ¬ requested s := fun hr => hr.1 (by rw [h]; exact BitVec.zero_and)

/-- Three stores in RAM can always be made. -/
theorem entered_in_ram {vector : Byte} {ret : Word} {k : ExceptionKind} {s : State}
    (h2 : busAddr (entrySp k s - 2) < Config.ramSize) (h6 : busAddr (entrySp k s - 6) < Config.ramSize)
    (h8 : busAddr (entrySp k s - 8) < Config.ramSize) : ∃ t, Entered vector ret k s t :=
  ⟨_, _, _, _, memWrite_ram .w _ h2, memWrite_ram .l _ h6, memWrite_ram .w _ h8, rfl⟩

/-- A request of channel 13 at level 6, with the mask at 5. -/
def wi : State :=
  { put ws (.sr 0x2500) with mfp := { Mfp.cold with ier := 0x2020, imr := 0x2020, ipr := 0x2020, vr := 0x40 } }

theorem witness_InterruptIsTaken :
    wi.fault = none ∧ (wi.mfp.ipr &&& wi.mfp.imr ≠ 0 ∧ wi.sr.i.toNat < wi.params.mfpIrqLevel.toNat) ∧ (wi.mfp.ipr &&& wi.mfp.imr).getLsbD 13 = true ∧
    (∀ j < 20, 13 < j → (wi.mfp.ipr &&& wi.mfp.imr).getLsbD j = false) := by
  decide +kernel

theorem witness_InterruptIsTaken_entry :
    ∃ t, Entered ((wi.mfp.vr &&& 0xF0) ||| BitVec.ofNat 8 13) wi.pc (.interrupt wi.params.mfpIrqLevel)
      { wi with trap := false, mfp := { wi.mfp with ipr := wi.mfp.ipr &&& ~~~ BitVec.ofNat 16 (2 ^ 13) } } t :=
  entered_in_ram (by decide +kernel) (by decide +kernel) (by decide +kernel)

/-- The stack pointer at the lowest and at the highest place that holds a frame, the first and the last vector. -/
theorem witness_ExceptionFrame :
    canEnter 0 .other (put ws (.isp 8)) ∧ canEnter 255 (.interrupt 7) (put ws (.isp 0x800000)) ∧
    canEnter 33 .other wu ∧ canEnter 33 .other (put wu (.sr 0x1000)) := by
  unfold canEnter
  decide +kernel

theorem witness_TrapsEnterTheirVectors :
    wu.sr.v = true ∧
    (Instr.chk 0 (.dn 1)).wf = true ∧ isOk (readEa (.dn 1) .w we) = true ∧ signedOf .w (trunc .w (we.dreg 0)) < 0 ∧
    (Instr.chk 1 (.ind 1)).wf = true ∧
    okBut (readEa (.ind 1) .w we) (fun b _ => decide (signedOf .w b < signedOf .w (trunc .w (we.dreg 1)))) = true ∧
    (Instr.divu 0 (.ind 2)).wf = true ∧ okBut (readEa (.ind 2) .w we) (fun v _ => v == 0) = true := by decide +kernel

theorem witness_TrapsEnterTheirVectors_entry :
    (∃ t, Entered 47 we.pc .other we t) ∧ (∃ t, Entered 7 wu.pc .other wu t) ∧
    (∀ f z v c : Bool, ∃ t, Entered 6 we.pc .other
      ({ we with draws := we.draws + 3 }.setSr { we.sr with n := f, z := z, v := v, c := c }) t) ∧
    (∀ f z v : Bool, ∃ t, Entered 5 we.pc .other
      ({ we with draws := we.draws + 3 }.setSr { we.sr with n := f, z := z, v := v, c := false }) t) := by
  refine ⟨entered_in_ram ?_ ?_ ?_, entered_in_ram ?_ ?_ ?_, fun f z v c => entered_in_ram ?_ ?_ ?_,
    fun f z v => entered_in_ram ?_ ?_ ?_⟩
  all_goals first | decide +kernel | revert f z v c; decide +kernel | revert f z v; decide +kernel

theorem witness_PrivilegeViolation :
    [Instr.oriToSr, .andiToSr, .eoriToSr, .moveToSr .imm, .moveAnUsp 0, .moveUspAn 0, .reset, .stop, .rte].all
      Instr.privileged = true ∧ wu.sr.s = false ∧ (∃ t, Entered 8 (wu.pc - 2) .other wu t) :=
  ⟨by decide, by decide +kernel, entered_in_ram (by decide +kernel) (by decide +kernel) (by decide +kernel)⟩

/-- Frames with the last accepted and the first refused format word. -/
theorem witness_ReturnFromException :
    (let s := put (put ws (.isp 0x2000)) (.m 0x2006 .w 0x1FFF)
     s.sr.s = true ∧ (memRead s s.sp .w).2 = s ∧ (memRead s (s.sp + 2) .l).2 = s ∧
     (memRead s (s.sp + 6) .w).1.toNat < 0x2000) ∧
    (let s := put (put ws (.isp 0x2000)) (.m 0x2006 .w 0x2000)
     s.sr.s = true ∧ 0x2000 ≤ (memRead s (s.sp + 6) .w).1.toNat) := by decide +kernel

theorem witness_ExceptionRoundTrip :
    canEnter 69 (.interrupt 6) wu ∧ ∃ t, Entered 69 0x1234 (.interrupt 6) wu t :=
  ⟨by unfold canEnter; decide +kernel, entered_in_ram (by decide +kernel) (by decide +kernel) (by decide +kernel)⟩

theorem witness_UserModeConfined :
    wu.sr.s = false ∧ nextWith (exec (.moveq 0 5) wu) (fun t => !t.trap) = true ∧
    nextWith (exec (.moveW (.predec 7) (.postinc 7)) wu) (fun t => !t.trap) = true := by decide +kernel

theorem witness_InstructionsEnd :
    storeOk (memWrite ws 0xFFFA19 .b 9) = false ∧ storeOk (memWrite ws 0xFFFA1A .w 0x0F) = false ∧
    storeOk (memWrite ws 0xFFFA19 .b 8) = true := by decide +kernel

/-- The frames: `ADD.B D0,(A0)+` completes without a trap, `D1` and `A1` are none of its destinations, the two neighbours of
its byte are outside what it stores, and the target is RAM. -/
theorem witness_Frames :
    let i := Instr.addDnEa 0 .b (.postinc 0)
    i.wf = true ∧ nextWith (exec i we) (fun t => !t.trap && t.areg 0 == 0x2001 && peek t 0x2000 == 0x93) = true ∧
    (1 : Reg) ∉ writesD i we ∧ (1 : Reg) ∉ writesA i we ∧ (7 : Reg) ∉ writesA i we ∧ stores i we = [(0x2000, 1)] ∧
    busAddr 0x2001 < Config.ramSize ∧ we.dac.mwCycles = 0 := by decide +kernel

theorem witness_MemoryFrame :
    outside 0x1FFF (stores (.addDnEa 0 .b (.postinc 0)) we) ∧ outside 0x2001 (stores (.addDnEa 0 .b (.postinc 0)) we) ∧
    stores (.tst .l (.ind 0)) we = [] ∧ nextWith (exec (.tst .l (.ind 0)) we) (fun t => !t.trap) = true ∧
    ¬ isMaskByte 0xFF8923 ∧ ¬ isMaskByte 0xFF8926 ∧ isMaskByte 0xFF8924 := by
  unfold outside isMaskByte
  decide +kernel

theorem witness_ActiveStackPointer :
    wu.sr.s = false ∧ (ws.sr.s = true ∧ ws.sr.m = false) ∧ (put ws (.sr 0x3700)).sr.s = true ∧ (put ws (.sr 0x3700)).sr.m = true := by
  decide +kernel

theorem witness_AddressingModes : isOk (indexAddress (we.areg 0) we) = true ∧ isOk (indexAddress we.pc we) = true := by
  decide +kernel

/-- One extension word for each clause: brief, full with a 16-bit and a 32-bit displacement, full with a null one. -/
theorem witness_IndexedAddress :
    [0x1480, 0x1920, 0x1B30, 0x1910, 0x01FF].map
      (fun w => ((word1 (before [w] [])).toNat / 0x100 % 2, (word1 (before [w] [])).toNat % 0x100)) =
      [(0, 0x80), (1, 0x20), (1, 0x30), (1, 0x10), (1, 0xFF)] := by decide +kernel

theorem witness_RamBytes : busAddr 0x00000000 < Config.ramSize ∧ busAddr 0xFF7FFFFF < Config.ramSize := by decide +kernel

theorem witness_BusRouting :
    (0x01001000#32).toNat % 0x1000000 = (0x00001000#32).toNat % 0x1000000 ∧
    [0x800000, 0xFF87FF, 0xFF8804, 0xFF88FF, 0xFF8926, 0xFFF9FF, 0xFFFA40, 0xFFFFFF].all (fun a => decide (0x800000 ≤ a) &&
      !decide (0xFF8800 ≤ a ∧ a < 0xFF8804) && !decide (0xFF8900 ≤ a ∧ a < 0xFF8926) && !decide (0xFFFA00 ≤ a ∧ a < 0xFFFA40))
      = true := by decide +kernel

/-- For every size a source that can be read and a destination that can be written, in a register and in RAM. -/
theorem witness_MoveResults :
    [(Size.b, Ea.ind 1, Ea.dn 1), (.w, .dn 0, .predec 0), (.l, .postinc 0, .ind 2)].all (fun p =>
      okBut (readEa p.2.1 p.1 we) (fun v s1 => okBut (resolve p.2.2 p.1 s1) (fun loc s2 => isOk (writeLoc loc p.1 v s2)))) = true ∧
    (Instr.moveB (.dn 1) (.ind 1)).wf = true ∧ (Instr.moveW (.predec 0) (.dn 0)).wf = true ∧
    (Instr.moveL (.ind 2) (.postinc 0)).wf = true ∧ isOk (readEa .imm .w we) = true ∧ isOk (readEa (.ind 0) .l we) = true := by
  decide +kernel

/-- `D0`, `D1`, `A0` to memory, downwards and upwards; a mask of all registers; an empty mask. -/
theorem witness_MovemResults :
    (listDown 0xC080, listUp 0x0103, (listUp 0xFFFF).length, listDown 0x0000) = ([0, 1, 8], [0, 1, 8], 16, []) ∧
    storeOk (storeAll .l [(we.areg 0 - 4, 1), (we.areg 0 - 8, 2)] (after1 we)) = true ∧
    (Instr.movemToMem true (.ind 0)).wf = true ∧ isOk (resolve (.ind 0) .l (after1 we)) = true ∧
    (Instr.movemToRegs false .pcDisp).wf = true ∧ isOk (resolve .pcDisp .w (after1 we)) = true := by decide +kernel

theorem witness_MovepResults :
    storeOk (storeAll .b ((spread (we.areg 0 + BitVec.ofInt 32 (word1 we).toInt) 2 4).zip (bytesFrom (we.dreg 0) 4)) (after1 we))
      = true ∧ bytesFrom 0x11223344 4 = [0x11, 0x22, 0x33, 0x44] ∧ bytesFrom 0x11223344 2 = [0x33, 0x44] := by decide +kernel

theorem witness_AddressAndStackMoves :
    (Instr.lea 0 (.disp 1)).wf = true ∧ okBut (resolve (.disp 1) .l we) (fun l _ => l == .mem 0x800002) = true ∧
    (Instr.pea (.ind 0)).wf = true ∧ storeOk (memWrite (we.setSp (we.sp - 4)) (we.sp - 4) .l 0x2000) = true ∧
    storeOk (memWrite ((after1 we).setSp (we.sp - 4)) (we.sp - 4) .l (we.areg 6)) = true := by decide +kernel

theorem witness_AddressAndStackMoves_a7 :
    ∀ any : Word, ∃ t, memWrite { (after1 we).setSp (we.sp - 4) with draws := we.draws + 1 } (we.sp - 4) .l any = .ok t :=
  fun any => ⟨_, memWrite_ram .l any (by decide +kernel)⟩

/-- The shapes of the arithmetic and logic statements: a source in RAM, a destination in a register and in RAM, an immediate. -/
theorem witness_ArithmeticShapes :
    [Instr.addEaDn 1 .b (.ind 1), .subEaDn 1 .w (.an 0), .andEaDn 0 .l .imm, .orEaDn 0 .w (.postinc 0), .cmp 1 .l (.an 7),
      .addDnEa 0 .b (.predec 0), .subDnEa 0 .w (.ind 1), .andDnEa 0 .l (.ind 0), .orDnEa 1 .b (.postinc 0), .eor 0 .b (.dn 1),
      .addi .b (.dn 0), .subi .w (.ind 0), .andi .l (.dn 1), .ori .b (.ind 1), .eori .w (.predec 2), .cmpi .l (.ind 0),
      .addq 0 .b (.ind 1), .subq 7 .l (.dn 0), .neg .b (.dn 0), .negx .w (.ind 0), .notOp .l (.dn 1), .clr .w (.ind 1)].all
      Instr.wf = true ∧
    [(Ea.ind 1, Size.b), (.an 0, .w), (.imm, .l), (.postinc 0, .w), (.an 7, .l)].all (fun p => isOk (readEa p.1 p.2 we)) = true ∧
    [(Ea.predec 0, Size.b), (.ind 1, .w), (.ind 0, .l), (.dn 1, .b), (.dn 0, .l)].all (fun p =>
      changeable p.1 p.2 we (fun d => sumValue p.2 (trunc p.2 (we.dreg 0)) d true)
        && changeable p.1 p.2 we (fun d => differenceValue p.2 (trunc p.2 (we.dreg 0)) d true)
        && changeableImm p.1 p.2 we (fun s d => sumValue p.2 s d false)
        && changeableImm p.1 p.2 we (fun s d => s ^^^ d)) = true ∧
    Ea.isAn (.ind 1) = false := by decide +kernel

theorem witness_ExtendedResults :
    okBut (readEa (.predec 1) .w we) (fun v s1 => okBut (resolve (.predec 0) .w s1) (fun loc s2 =>
      isOk (writeLoc loc .w (sumValue .w v (readLocFrom s2 loc .w).1 true) (readLocFrom s2 loc .w).2)
        && isOk (writeLoc loc .w (differenceValue .w v (readLocFrom s2 loc .w).1 true) (readLocFrom s2 loc .w).2))) = true := by
  decide +kernel

theorem witness_AddressArithmetic :
    isOk (readEa (.postinc 0) .w we) = true ∧ isOk (readEa .imm .l we) = true ∧ Size.w ≠ Size.b ∧ Size.l ≠ Size.b := by
  decide +kernel

theorem witness_CompareResults :
    (Instr.cmp 0 .b (.ind 0)).wf = true ∧ isOk (readEa (.ind 0) .b we) = true ∧ (Instr.cmpi .w (.ind 0)).wf = true ∧
    okBut (fetchImm .w we) (fun _ s0 => isOk (readEa (.ind 0) .w s0)) = true ∧
    okBut (readEa (.postinc 0) .l we) (fun _ s0 => isOk (readEa (.postinc 0) .l s0)) = true := by decide +kernel

/-- The ends of the byte range on both sides. -/
theorem witness_ConditionsAfterCompare :
    [0x00#32, 0x7F#32, 0x80#32, 0xFF#32].all (fun v => decide (v.toNat < span .b)) = true ∧ (0xFFFFFFFF#32).toNat < span .l := by
  decide +kernel

theorem witness_ClearExtendAndTest :
    [Instr.clr .l (.ind 0), .scc .f (.ind 1), .tst .b (.dn 0), .tas (.ind 0)].all Instr.wf = true ∧
    changeable (.ind 0) .l we (fun _ => 0) = true ∧
    okBut (resolve (.ind 1) .b we) (fun loc s1 => isOk (writeLoc loc .b (if we.sr.holds .f then 0xFF else 0) s1)) = true ∧
    isOk (readEa (.dn 0) .b we) = true ∧
    okBut (resolve (.ind 0) .b we) (fun loc s1 => isOk (writeLoc loc .b
      (BitVec.ofNat 32 (128 + (readLocFrom s1 loc .b).1.toNat % 128))
      ((readLocFrom s1 loc .b).2.setSr (logicStatus .b (readLocFrom s1 loc .b).1 we.sr)))) = true := by decide +kernel

/-- A source to multiply by; quotients at both ends of what fits, and the first that do not. -/
theorem witness_MultiplyAndDivide :
    (Instr.mulu 0 (.dn 1)).wf = true ∧ isOk (readEa (.dn 1) .w we) = true ∧
    [(0xFFFF, 0x98), (0x10000, 0), (0, 1)].all (fun p => (p.2 : Nat) < 0x99 ∧ p.1 * 0x99 + p.2 < 2 ^ 32) = true ∧
    [(0x7FFF, 0x98), (-0x8000, -0x98), (0x8000, 0), (-0x8001, 0)].all (fun p : Int × Int =>
      p.2.natAbs < 0x99 && decide (p.2 = 0 ∨ (0 < p.2 ↔ 0 < p.1 * 0x99 + p.2))) = true := by decide +kernel

theorem witness_ShiftResults :
    [Instr.asrMem (.ind 0), .aslMem (.predec 1), .lsrMem .absW, .lslMem (.postinc 0), .roxrMem (.ind 0), .roxlMem (.ind 1),
      .rorMem (.ind 2), .rolMem .absL].all Instr.wf = true ∧
    [ShiftKind.asr, .asl, .lsr, .lsl, .roxr, .roxl, .ror, .rol].all (fun k =>
      changeable (.ind 0) .w we (fun d => (shiftValue k .w 1 d we.sr.x).value)) = true := by decide +kernel

/-- The static number at 0 and 255, the dynamic one at 0xFFFF8081; a register and a byte. -/
theorem witness_BitResults :
    [Instr.btstImm .pcDisp, .btstReg 0 .imm, .bchgImm (.dn 0), .bclrImm (.ind 0), .bsetImm (.ind 1), .bchgReg 0 (.dn 1),
      .bclrReg 0 (.ind 0), .bsetReg 0 (.predec 0)].all Instr.wf = true ∧
    isOk (readEa .pcDisp .b (after1 we)) = true ∧ isOk (readEa .imm .b we) = true ∧
    changeable (.ind 0) .b (after1 we) (fun d => d) = true ∧ changeable (.dn 1) .l we (fun d => d) = true := by decide +kernel

/-- Decimals 99 and 0 in registers and memory, and a byte that is none. -/
theorem witness_DecimalResults :
    okBut (pairOperands .b 1 .regs 1 we) (fun o s1 => o == (packed 99, Loc.dreg 1, packed 99) &&
      isOk (writeLoc o.2.1 .b (packed 98) { s1 with draws := s1.draws + 2 })) = true ∧
    okBut (pairOperands .b 2 .predec 2 we) (fun o _ => o.1 == packed 0 && o.2.2 == packed 0) = true ∧
    (Instr.nbcd (.ind 2)).wf = true ∧
    okBut (resolve (.ind 2) .b we) (fun loc s1 => (readLocFrom s1 loc .b).1 == packed 0) = true ∧
    okBut (pairOperands .b 0 .regs 2 (we.setD 2 0x9A)) (fun o _ => decide (o.1.toNat < 256 ∧ 9 < o.1.toNat % 16)) = true ∧
    okBut (resolve (.dn 2) .b (we.setD 2 0xA0)) (fun loc s1 => decide (9 < (readLocFrom s1 loc .b).1.toNat / 16)) = true := by
  decide +kernel

theorem witness_BranchResults :
    [0x00#8, 0xFF#8, 0x01#8, 0xFE#8].all (fun d =>
      storeOk (memWrite ((branchWords d we).2.setSp (we.sp - 4)) (we.sp - 4) .l (branchWords d we).2.pc)) = true ∧
    we.sr.holds .t = true ∧ we.sr.holds .f = false ∧ ((we.setD 3 0x10000).dreg 3).toNat % 0x10000 = 0 ∧
    (we.dreg 0).toNat % 0x10000 ≠ 0 := by decide +kernel

theorem witness_JumpsAndReturns :
    (Instr.jmp (.ind 1)).wf = true ∧ okBut (resolve (.ind 1) .l we) (fun l s1 => l == .mem 0x7FFFFE &&
      storeOk (memWrite (s1.setSp (we.sp - 4)) (we.sp - 4) .l s1.pc)) = true ∧
    (memRead we we.sp .w).2 = we ∧ we.sr.v = false ∧ (Instr.chk 1 (.dn 1)).wf = true ∧
    okBut (readEa (.dn 1) .w we) (fun b _ => decide (0 ≤ signedOf .w (trunc .w (we.dreg 1)) ∧
      signedOf .w (trunc .w (we.dreg 1)) ≤ signedOf .w b)) = true := by decide +kernel

theorem witness_StatusMoves :
    we.sr.s = true ∧ (Instr.moveToCcr (.dn 0)).wf = true ∧ isOk (readEa (.dn 0) .w we) = true ∧
    (Instr.moveFromSr (.ind 1)).wf = true ∧ changeable (.ind 1) .w we (fun _ => BitVec.ofNat 32 we.sr.toWord.toNat) = true := by
  decide +kernel

theorem witness_SupervisorOperations : we.sr.s = true ∧ (put we (.sr 0x3000)).sr.s = true := by decide +kernel

/-- Channels 15 and 0, and no channel. -/
theorem witness_MfpInterruptController :
    (let m := { Mfp.cold with ipr := 0x8001, imr := 0x8001 }
     (m.ipr &&& m.imr).getLsbD 15 = true ∧ ∀ j < 40, 15 < j → (m.ipr &&& m.imr).getLsbD j = false) ∧
    (let m := { Mfp.cold with ipr := 0x8001, imr := 0x0001 }
     (m.ipr &&& m.imr).getLsbD 0 = true ∧ ∀ j < 40, 0 < j → (m.ipr &&& m.imr).getLsbD j = false) ∧
    Mfp.cold.ipr &&& Mfp.cold.imr = 0 := by decide +kernel

theorem witness_TimerPeriod :
    Timer.cold.control = 0 ∧ [1#4, 7#4].all (fun c => decide (0 < c.toNat ∧ c.toNat < 8)) = true := by decide +kernel

theorem witness_ClockNeverDrifts : 0 < 50066 ∧ 50066 ≤ 32000000 ∧ 0 < 1 ∧ 1 ≤ 1 := by decide

theorem witness_MicrowireTransaction :
    { we with dac := Dac.cold.startTransaction }.dac.mwCycles = 16 ∧
    [(0xFF8921#32, Size.l), (0xFF8922, .l), (0xFF8923, .w), (0xFF8924, .b), (0xFF8925, .l), (0x00FF8925, .b)].all (fun q =>
      decide (0xFF8900 ≤ busAddr q.1 ∧ busAddr q.1 ≤ 0xFF8925 ∧ 0xFF8924 < busAddr q.1 + byteCount q.2)) = true ∧
    [(0xFF8920#32, Size.l), (0xFF8922, .w), (0xFF8923, .b), (0xFF8926, .b)].all (fun q =>
      !decide (0xFF8900 ≤ busAddr q.1 ∧ busAddr q.1 ≤ 0xFF8925 ∧ 0xFF8924 < busAddr q.1 + byteCount q.2)) = true ∧
    [0, 5].all (fun k => { we with dac := { Dac.cold with mwMask := BitVec.ofNat 16 (0x07FF * 2 ^ k) } }.dac.mwMask ==
      BitVec.ofNat 16 (0x07FF * 2 ^ k)) = true := by decide +kernel

theorem witness_DmaBufferEnds :
    let d : Dac := { Dac.cold with dmaActive := true, dmaBegin := 0x2000, dmaCurrent := 0x2000, dmaEnd := 0x2002 }
    d.dmaActive = true ∧ d.dmaRateCounter = 0 ∧ d.dmaCurrent = d.dmaBegin ∧
    d.dmaBegin.toNat + 1 * (if d.dmaMono then 1 else 2) = d.dmaEnd.toNat := by decide +kernel

theorem witness_PsgSamples : Params.standard.legal = true ∧ Psg.cold.div8 = 0 := by decide +kernel

theorem witness_InvariantIsKept :
    Params.standard.legal = true ∧ ws.ram.wf = true ∧ ws.psg.masked = true ∧ ws.mfp.ok = true ∧ ws.dac.ok = true ∧
    ws.psgClock.ok = true ∧ ws.mfpClock.ok = true ∧ ws.dacClock.ok = true ∧ nextWith (step ws) (fun _ => true) = true := by
  decide +kernel

theorem witness_ResetValuesOfTheSpec :
    Params.standard.legal = true ∧ Params.standard.vbrReset = 0 ∧ Params.standard.ramInit = 0 ∧
    (ResetValues.standard Params.standard).legal Params.standard = true ∧
    (let p := { Params.standard with vbrReset := 0x7FFFF8, ramInit := 0xA5 }
     let r := { ResetValues.standard p with dac := { Dac.cold with mainVolume := 20, mwCycles := 3 } }
     p.legal = true ∧ r.legal p = true ∧ busAddr p.vbrReset + 8 ≤ Config.ramSize) := by decide +kernel

/-- Every period at its smallest and its largest, the envelope in its ramp, at its end and held. -/
theorem witness_PsgGeneratorStep :
    Params.standard.legal = true ∧
    ({ Psg.cold with div8 := 7 }.div8 = 7 ∧ max (psgNat Psg.cold 1 % 16 * 256 + psgNat Psg.cold 0) 1 ≤ 1) ∧
    (let g := { Psg.cold with regs := Vector.replicate 16 0x0F }
     ¬ max (psgNat g 1 % 16 * 256 + psgNat g 0) 1 ≤ 1 ∧ ¬ 2 * max (psgNat g 6 % 32) 1 ≤ 1 ∧
     ¬ max (psgNat g 12 * 256 + psgNat g 11) 1 ≤ 1) := by decide +kernel

end Sys2Proof.Tests
end

namespace Sys2Proof.Machine

/-! # Register writes -/

/-- A write of size `sz` to a data register, in naturals (00_scope R11). -/
theorem merge_b_toNat (old v : Word) : (merge .b old v).toNat = old.toNat / 0x100 * 0x100 + v.toNat % 0x100 := by
  simp only [merge, BitVec.toNat_append, BitVec.extractLsb'_toNat, BitVec.toNat_setWidth, Nat.shiftLeft_eq,
    Nat.shiftRight_eq_div_pow]
  rw [or_byte _ _ (by omega)]
  omega

theorem merge_w_toNat (old v : Word) : (merge .w old v).toNat = old.toNat / 0x10000 * 0x10000 + v.toNat % 0x10000 := by
  simp only [merge, BitVec.toNat_append, BitVec.extractLsb'_toNat, BitVec.toNat_setWidth, Nat.shiftLeft_eq,
    Nat.shiftRight_eq_div_pow]
  rw [Nat.mul_comm, ← Nat.two_pow_add_eq_or_of_lt (by omega)]
  omega

/-- Settles O22: the rules of Laws/State.lean for a register read after a register write, and `merge` in naturals. -/
theorem registerWrites : Obligations.RegisterWrites := by
  unfold Obligations.RegisterWrites
  intro s n m v
  refine ⟨?_, ?_, ?_, State.areg_setA_same s n v, fun sz => ⟨fun h => ?_, State.areg_writeD s n m sz v⟩, fun h => ?_,
    State.dreg_setA s n m v⟩
  · rw [State.dreg_writeD_same, merge_b_toNat]
  · rw [State.dreg_writeD_same, merge_w_toNat]
  · rw [State.dreg_writeD_same, merge]
  · exact State.dreg_writeD_other s sz v h.symm
  · exact State.areg_setA_other s v h.symm

/-! # Conditions after a comparison -/
section
open Claims

theorem trunc_toNat (sz : Size) (v : Word) : (trunc sz v).toNat = v.toNat % span sz := by
  cases sz <;> simp only [trunc, span, bitCount, BitVec.toNat_setWidth] <;> omega

/-- The top bit of a value of its size says that it lies in the upper half. -/
theorem msbOf_eq_negative {sz : Size} {v : Word} (h : v.toNat < span sz) : msbOf sz v = negative sz v := by
  unfold msbOf negative BitVec.getLsbD
  rw [Nat.testBit_eq_decide_div_mod_eq, decide_eq_decide]
  cases sz <;> simp only [span, bitCount] at * <;> omega

/-- The difference of two values of a size wraps around at most once. -/
theorem diffOf_toNat {sz : Size} {s d : Word} (hs : s.toNat < span sz) (hd : d.toNat < span sz) :
    (diffOf sz s d false).toNat = if s.toNat ≤ d.toNat then d.toNat - s.toNat else d.toNat + span sz - s.toNat := by
  have h32 : (d - s - bitWord false).toNat = (2 ^ 32 - s.toNat + d.toNat) % 2 ^ 32 := by
    simp [bitWord, BitVec.toNat_sub]
  rw [diffOf, trunc_toNat, h32]
  cases sz <;> simp only [span, bitCount] at * <;> split <;> omega

theorem diffOf_lt {sz : Size} {s d : Word} : (diffOf sz s d false).toNat < span sz := by
  rw [diffOf, trunc_toNat]
  exact Nat.mod_lt _ (Nat.two_pow_pos _)

/-- The same as two cases. -/
theorem diffOf_cases {sz : Size} {s d : Word} (hs : s.toNat < span sz) (hd : d.toNat < span sz) :
    (s.toNat ≤ d.toNat ∧ (diffOf sz s d false).toNat = d.toNat - s.toNat) ∨
      (d.toNat < s.toNat ∧ (diffOf sz s d false).toNat = d.toNat + span sz - s.toNat) := by
  rw [diffOf_toNat hs hd]
  split <;> omega

theorem signedOf_cases (sz : Size) (v : Word) :
    (2 * v.toNat < span sz ∧ signedOf sz v = v.toNat) ∨
      (span sz ≤ 2 * v.toNat ∧ signedOf sz v = (v.toNat : Int) - span sz) := by
  unfold signedOf
  split <;> omega

/-! ## The four flags that a comparison sets, in naturals and integers -/

theorem flagsCmp_c (sz : Size) (s d : Word) (f : Status) : (flagsCmp sz s d f).c = decide (d.toNat < s.toNat) := rfl

theorem flagsCmp_z {sz : Size} {s d : Word} (f : Status) (hs : s.toNat < span sz) (hd : d.toNat < span sz) :
    (flagsCmp sz s d f).z = decide (d = s) := by
  show decide (trunc sz (diffOf sz s d false) = 0) = decide (d = s)
  have hr := diffOf_toNat hs hd
  rw [decide_eq_decide, ← BitVec.toNat_inj, ← BitVec.toNat_inj, trunc_toNat, Nat.mod_eq_of_lt diffOf_lt, hr]
  have h0 : (0 : Word).toNat = 0 := rfl
  split <;> omega

theorem flagsCmp_n {sz : Size} {s d : Word} (f : Status) :
    (flagsCmp sz s d f).n = negative sz (diffOf sz s d false) := msbOf_eq_negative diffOf_lt

/-- Overflow of a subtraction: the signed difference is not a signed value of the size. -/
theorem flagsCmp_v {sz : Size} {s d : Word} (f : Status) (hs : s.toNat < span sz) (hd : d.toNat < span sz) :
    (flagsCmp sz s d f).v = !inRange sz (signedOf sz d - signedOf sz s) := by
  show ((msbOf sz s != msbOf sz d) && (msbOf sz (diffOf sz s d false) != msbOf sz d)) = _
  rw [msbOf_eq_negative hs, msbOf_eq_negative hd, msbOf_eq_negative diffOf_lt, Bool.eq_iff_iff]
  simp only [negative, inRange, Bool.and_eq_true, bne_iff_ne, ne_eq, decide_eq_decide, Bool.not_eq_true',
    decide_eq_false_iff_not]
  have hr := diffOf_cases hs hd
  have hs' := signedOf_cases sz s
  have hd' := signedOf_cases sz d
  omega

/-- `N ≠ V` is the signed order. -/
theorem flagsCmp_n_bne_v {sz : Size} {s d : Word} (f : Status) (hs : s.toNat < span sz) (hd : d.toNat < span sz) :
    ((flagsCmp sz s d f).n != (flagsCmp sz s d f).v) = decide (signedOf sz d < signedOf sz s) := by
  rw [flagsCmp_n, flagsCmp_v f hs hd, Bool.eq_iff_iff]
  simp only [negative, inRange, bne_iff_ne, ne_eq, ← decide_not, decide_eq_decide, decide_eq_true_eq]
  have hr := diffOf_cases hs hd
  have hs' := signedOf_cases sz s
  have hd' := signedOf_cases sz d
  omega

/-- A value of a size is its signed value: equality can be tested on either. -/
theorem eq_iff_signedOf {sz : Size} {s d : Word} (hs : s.toNat < span sz) (hd : d.toNat < span sz) :
    d = s ↔ signedOf sz d = signedOf sz s := by
  rw [← BitVec.toNat_inj]
  have hs' := signedOf_cases sz s
  have hd' := signedOf_cases sz d
  omega

/-- Settles O39: each test is read off the flags, and each flag is an order or an equality of the operands. -/
theorem conditionsAfterCompare : Obligations.ConditionsAfterCompare := by
  unfold Obligations.ConditionsAfterCompare
  intro sz s d f hs hd g
  have hc : g.c = decide (d.toNat < s.toNat) := flagsCmp_c sz s d f
  have hz : g.z = decide (d = s) := flagsCmp_z f hs hd
  have hzu : g.z = decide (d.toNat = s.toNat) := by rw [hz, decide_eq_decide, BitVec.toNat_inj]
  have hzi : g.z = decide (signedOf sz d = signedOf sz s) := by rw [hz, decide_eq_decide, eq_iff_signedOf hs hd]
  have hv : g.v = !inRange sz (signedOf sz d - signedOf sz s) := flagsCmp_v f hs hd
  have hlt : (g.n != g.v) = decide (signedOf sz d < signedOf sz s) := flagsCmp_n_bne_v f hs hd
  have hge : (g.n == g.v) = decide (signedOf sz s ≤ signedOf sz d) := by
    rw [← Bool.not_not (g.n == g.v), ← bne, hlt, ← decide_not, decide_eq_decide, not_lt]
  refine ⟨?hi, ?ls, ?cc, hc, ?ne, hz, hge, hlt, ?gt, ?le, hv, ?vc, rfl, rfl, ?mi⟩
  case ne => rw [Status.holds, hz, decide_not]
  case vc => rw [Status.holds, hv, Bool.not_not]
  case mi => rw [Status.holds, Status.holds, Bool.not_not]
  case gt | le =>
    simp only [Status.holds, hzi, hlt, hge, ← decide_not, ← Bool.decide_and, ← Bool.decide_or, decide_eq_decide]
    omega
  case hi | ls | cc =>
    simp only [Status.holds, hc, hzu, ← decide_not, ← Bool.decide_and, ← Bool.decide_or, decide_eq_decide]
    omega
end
end Sys2Proof.Machine

namespace Sys2Proof.Machine

/-! # Operands

What resolving an operand answers, mode by mode, and that a value read has the operand's size. -/

section
open Claims

/-! ## Values have the size they are read with -/

theorem Mfp.access_lt (m : Mfp) (o : Nat) (sz : Size) : (m.access o sz).toNat < 2 ^ bitCount sz := by
  cases sz with
  | b =>
    simp only [Mfp.access, bitCount]
    split
    · rw [BitVec.toNat_setWidth]
      exact lt_of_le_of_lt (Nat.mod_le _ _) (m.readReg o).isLt
    · exact Nat.two_pow_pos _
  | w =>
    simp only [Mfp.access, bitCount]
    split
    · rw [BitVec.toNat_setWidth]
      exact lt_of_le_of_lt (Nat.mod_le _ _) ((0 : Byte) ++ m.readReg (o + 1)).isLt
    · exact Nat.two_pow_pos _
  | l => exact BitVec.isLt _

theorem memRead_lt (s : State) (a : Word) (sz : Size) : (memRead s a sz).1.toNat < 2 ^ bitCount sz := by
  unfold memRead
  split
  · exact joinBytes_lt _ _
  · exact joinBytes_lt _ _
  · exact Mfp.access_lt _ _ _
  · exact joinBytes_lt _ _
  · exact Nat.two_pow_pos _

/-- An immediate has the size it is fetched for. -/
theorem fetchImm_ok (sz : Size) (s : State) : ∃ v t, fetchImm sz s = .ok v t ∧ v.toNat < 2 ^ bitCount sz := by
  cases sz with
  | b => exact ⟨_, _, rfl, trunc_lt .b ((fetchWord s).1.setWidth 32)⟩
  | w => exact ⟨_, _, rfl, lt_of_le_of_lt (Nat.le_of_eq (BitVec.toNat_setWidth_of_le (by decide))) (fetchWord s).1.isLt⟩
  | l => exact ⟨_, _, rfl, BitVec.isLt _⟩

/-! ## Indexed addresses -/

theorem bitNat_le_one (b : Bool) : bitNat b ≤ 1 := by cases b <;> decide

theorem bitNat_eq_zero {b : Bool} : bitNat b = 0 ↔ b = false := by cases b <;> decide

/-- Bits 7:0 of a full-format extension word are those of a displacement form this hardware has (30_encoding R141). -/
theorem decodeIndexTail_full {w : Half} (h : w.toNat / 0x100 % 2 = 1) :
    ∃ bs is bd b3 iis, decodeIndexTail w = .full bs is bd b3 iis ∧
      w.toNat % 0x100 = 128 * bitNat bs + 64 * bitNat is + 16 * bd.val + 8 * bitNat b3 + iis.val := by
  refine ⟨_, _, _, _, _, if_neg ?_, ?_⟩
  · unfold fieldAt
    omega
  · simp only [fieldAt, bitNat, regAt, Fin.ofNat, beq_iff_eq]
    split <;> split <;> split <;> omega

theorem decodeIndexTail_brief {w : Half} (h : w.toNat / 0x100 % 2 = 0) : decodeIndexTail w = .brief (byteAt w) :=
  if_pos h

theorem indexDisp_brief {x : IndexWord} {d : Byte} (h : x.tail = .brief d) : indexDisp x = pure (d.signExtend 32) := by
  simp only [indexDisp, h]

/-- The displacement of a full-format word has 16 bits, 32 bits, or a form this hardware does not have. -/
theorem indexDisp_full {x : IndexWord} {bs is : Bool} {bd : Fin 4} {b3 : Bool} {iis : Fin 8}
    (h : x.tail = .full bs is bd b3 iis) :
    ((bs = false ∧ is = false ∧ b3 = false ∧ iis.val = 0) ∧ bd.val = 2 ∧
        indexDisp x = (fetch16 >>= fun w => pure (w.signExtend 32))) ∨
      ((bs = false ∧ is = false ∧ b3 = false ∧ iis.val = 0) ∧ bd.val = 3 ∧ indexDisp x = fetch32) ∨
      (¬ ((bs = false ∧ is = false ∧ b3 = false ∧ iis.val = 0) ∧ (bd.val = 2 ∨ bd.val = 3)) ∧
        indexDisp x = hostFault .unsupportedExtensionWord) := by
  have hz : (bs || is || b3 || iis.val != 0) = false ↔ bs = false ∧ is = false ∧ b3 = false ∧ iis.val = 0 := by
    simp [and_assoc]
  rw [← hz]
  unfold indexDisp
  simp only [h]
  cases hb : (bs || is || b3 || iis.val != 0) with
  | true => simp
  | false =>
    match bd with
    | 0 => simp
    | 1 => simp
    | 2 => simp
    | 3 => simp

/-- The displacement of an indexed word is fetched, or the word has no form that this hardware has. -/
theorem indexDisp_run (w : Half) (s : State) :
    (∃ v t, indexDisp (decodeIndex w) s = .ok v t) ∨
      (w.toNat / 0x100 % 2 = 1 ∧ w.toNat % 0x100 ≠ 0x20 ∧ w.toNat % 0x100 ≠ 0x30 ∧
        indexDisp (decodeIndex w) s = .error (.fault .unsupportedExtensionWord) s) := by
  rcases Nat.mod_two_eq_zero_or_one (w.toNat / 0x100) with h | h
  · have e : indexDisp (decodeIndex w) = _ := indexDisp_brief (decodeIndexTail_brief h)
    exact .inl ⟨_, s, by rw [e, run_pure]⟩
  · obtain ⟨bs, is, bd, b3, iis, ht, hw⟩ := decodeIndexTail_full h
    rcases indexDisp_full (x := decodeIndex w) ht with ⟨_, _, e⟩ | ⟨_, _, e⟩ | ⟨hn, e⟩
    · exact .inl ⟨_, _, by rw [e, run_bind, run_fetch16]; rfl⟩
    · exact .inl ⟨_, _, by rw [e, run_fetch32]⟩
    · have hbits : ¬ (bitNat bs = 0 ∧ bitNat is = 0 ∧ bitNat b3 = 0 ∧ iis.val = 0 ∧ (bd.val = 2 ∨ bd.val = 3)) := by
        rintro ⟨h1, h2, h3, h4, h5⟩
        exact hn ⟨⟨bitNat_eq_zero.mp h1, bitNat_eq_zero.mp h2, bitNat_eq_zero.mp h3, h4⟩, h5⟩
      have l1 := bitNat_le_one bs
      have l2 := bitNat_le_one is
      have l3 := bitNat_le_one b3
      exact .inr ⟨h, by omega, by omega, by rw [e, run_hostFault]⟩

/-- `Index(base)` fetches the extension word, then its displacement. -/
theorem run_indexAddress (base : Word) (s : State) :
    indexAddress base s = (indexDisp (decodeIndex (word1 s)) >>= fun bd => pure (base + bd +
      indexValue (after1 s) (decodeIndex (word1 s)) <<< (decodeIndex (word1 s)).scale.val)) (after1 s) := rfl

theorem indexAddress_run (base : Word) (s : State) :
    (∃ a t, indexAddress base s = .ok a t) ∨
      ((word1 s).toNat / 0x100 % 2 = 1 ∧ (word1 s).toNat % 0x100 ≠ 0x20 ∧ (word1 s).toNat % 0x100 ≠ 0x30 ∧
        indexAddress base s = .error (.fault .unsupportedExtensionWord) (after1 s)) := by
  rcases indexDisp_run (word1 s) (after1 s) with ⟨v, t, h⟩ | ⟨h1, h2, h3, h⟩
  · exact .inl ⟨_, t, by rw [run_indexAddress, run_bind_ok h, run_pure]⟩
  · exact .inr ⟨h1, h2, h3, by rw [run_indexAddress, run_bind_error h]⟩

/-! ## Every mode -/

theorem run_resolve_index (n : Reg) (sz : Size) (s : State) :
    resolve (.index n) sz s = (indexAddress (s.areg n) >>= fun a => pure (.mem a)) s := rfl

theorem run_resolve_pcIndex (sz : Size) (s : State) :
    resolve .pcIndex sz s = (indexAddress s.pc >>= fun a => pure (.mem a)) s := rfl

/-- What a locator is, by the mode it came from; an immediate has the operand's size. -/
def Loc.IsOf (sz : Size) : Ea → Loc → Prop
  | .dn n, l => l = .dreg n
  | .an n, l => l = .areg n
  | .imm, l => ∃ v : Word, l = .imm v ∧ v.toNat < 2 ^ bitCount sz
  | _, l => ∃ a, l = .mem a

/-- Resolving answers a locator of the mode, or the mode is indexed and its extension word is one this hardware does not
have. -/
theorem resolve_run (e : Ea) (sz : Size) (s : State) :
    (∃ l t, resolve e sz s = .ok l t ∧ l.IsOf sz e) ∨
      (((∃ n, e = .index n) ∨ e = .pcIndex) ∧ (word1 s).toNat / 0x100 % 2 = 1 ∧ (word1 s).toNat % 0x100 ≠ 0x20 ∧
        (word1 s).toNat % 0x100 ≠ 0x30 ∧ ∃ t, resolve e sz s = .error (.fault .unsupportedExtensionWord) t) := by
  cases e with
  | dn n => exact .inl ⟨_, _, rfl, rfl⟩
  | an n => exact .inl ⟨_, _, rfl, rfl⟩
  | ind n => exact .inl ⟨_, _, rfl, _, rfl⟩
  | postinc n => exact .inl ⟨_, _, rfl, _, rfl⟩
  | predec n => exact .inl ⟨_, _, rfl, _, rfl⟩
  | disp n => exact .inl ⟨_, _, rfl, _, rfl⟩
  | absW => exact .inl ⟨_, _, rfl, _, rfl⟩
  | absL => exact .inl ⟨_, _, rfl, _, rfl⟩
  | pcDisp => exact .inl ⟨_, _, rfl, _, rfl⟩
  | imm =>
    obtain ⟨v, t, h, hv⟩ := fetchImm_ok sz s
    exact .inl ⟨.imm v, t, run_bind_ok h, v, rfl, hv⟩
  | index n =>
    rcases indexAddress_run (s.areg n) s with ⟨a, t, h⟩ | ⟨h1, h2, h3, h⟩
    · exact .inl ⟨.mem a, t, by rw [run_resolve_index, run_bind_ok h, run_pure], a, rfl⟩
    · exact .inr ⟨.inl ⟨n, rfl⟩, h1, h2, h3, _, by rw [run_resolve_index, run_bind_error h]⟩
  | pcIndex =>
    rcases indexAddress_run s.pc s with ⟨a, t, h⟩ | ⟨h1, h2, h3, h⟩
    · exact .inl ⟨.mem a, t, by rw [run_resolve_pcIndex, run_bind_ok h, run_pure], a, rfl⟩
    · exact .inr ⟨.inr rfl, h1, h2, h3, _, by rw [run_resolve_pcIndex, run_bind_error h]⟩

/-- A locator that answered is one of its mode. -/
theorem resolve_isOf {e : Ea} {sz : Size} {s t : State} {l : Loc} (h : resolve e sz s = .ok l t) : l.IsOf sz e := by
  rcases resolve_run e sz s with ⟨l', t', h', hl⟩ | ⟨_, _, _, _, _, h'⟩
  · rw [h'] at h
    injection h with hl'
    rwa [← hl']
  · rw [h'] at h
    cases h

theorem readLocFrom_lt {e : Ea} {sz : Size} {l : Loc} (h : l.IsOf sz e) (s : State) :
    (readLocFrom s l sz).1.toNat < 2 ^ bitCount sz := by
  cases l with
  | dreg n => exact trunc_lt sz _
  | areg n => exact trunc_lt sz _
  | mem a => exact memRead_lt s a sz
  | imm v =>
    cases e with
    | imm =>
      obtain ⟨_, hl, hv⟩ := h
      injection hl with hl
      rwa [hl]
    | dn n => cases h
    | an n => cases h
    | _ => obtain ⟨_, hl⟩ := h; cases hl

/-- Settles O27: `resolve_run`, with `moves_resolve` for what is left alone. -/
theorem operandsResolve : Obligations.OperandsResolve := by
  unfold Obligations.OperandsResolve
  intro e sz s
  rcases resolve_run e sz s with ⟨l, t, h, hl⟩ | h
  · obtain ⟨a, u, v, w, pc, m, n, _, rfl⟩ := (moves_resolve e sz).ok h
    exact .inl ⟨l, _, h, rfl, rfl, rfl, rfl, rfl, _, _, run_readEa h, readLocFrom_lt hl _⟩
  · exact .inr h
end
end Sys2Proof.Machine

namespace Sys2Proof.Machine

/-! # What an instruction can do

Said once for all instructions: the moves that lead from a state to the next, each within what the instruction's
`footprint` names. The frames are then inductions over these moves. -/

section
open Claims

/-! ## Refused writes -/

theorem Timer.writeControl_refused {t : Timer} {c : BitVec 4} {r : Refusal} (h : t.writeControl c = .error r) :
    r = .pwmModeUnspecified := by
  unfold Timer.writeControl at h
  split at h <;> cases h
  rfl

theorem Mfp.writeReg_refused {m : Mfp} {o : Nat} {v : Byte} {r : Refusal} (h : m.writeReg o v = .error r) :
    r = .pwmModeUnspecified := by
  unfold Mfp.writeReg at h
  split at h <;> first | cases h | skip
  all_goals
    split at h <;> cases h
    rename_i hc
    exact Timer.writeControl_refused hc

theorem Mfp.store_refused {m : Mfp} {o : Nat} {sz : Size} {v : Word} {r : Refusal} (h : m.store o sz v = .error r) :
    r = .pwmModeUnspecified := by
  cases sz <;> simp only [Mfp.store] at h <;> split at h <;> first | cases h | skip
  · exact Mfp.writeReg_refused h
  · exact Mfp.writeReg_refused h
  · split at h
    · exact Mfp.writeReg_refused h
    · rename_i hr
      cases h
      exact Mfp.writeReg_refused hr

theorem route_eq_mfp {a : Word} {o : Nat} (h : route a = some (.mfp, o)) :
    Config.mfpBase ≤ busAddr a ∧ busAddr a < Config.mfpBase + Config.mfpSize := by
  unfold route bindings at h
  simp only [routeIn] at h
  split at h <;> [skip; (split at h <;> [skip; (split at h <;> [skip; split at h])])]
  all_goals first | assumption | simp at h

/-- A bus write is refused only in the window of the MFP, and only for a pulse-width mode (61 R471). -/
theorem memWrite_refused {s : State} {a : Word} {sz : Size} {v : Word} {r : Refusal} (h : memWrite s a sz v = .error r) :
    r = .pwmModeUnspecified ∧ Config.mfpBase ≤ busAddr a ∧ busAddr a < Config.mfpBase + Config.mfpSize := by
  unfold memWrite at h
  split at h <;> first | cases h | skip
  rename_i o ho
  split at h <;> cases h
  rename_i hr
  exact ⟨Mfp.store_refused hr, route_eq_mfp ho⟩

/-! ## Moves -/

/-- What an instruction may write, and which part of the status word it may change. -/
structure Footprint where
  data : List Reg
  address : List Reg
  /-- A store of so many bytes at an address. -/
  store : Word × Nat → Prop
  status : StatusPart
  /-- `USP`, whatever the mode. -/
  userStack : Prop

/-- The footprint of an instruction that starts in `s`. -/
def footprint (i : Instr) (s : State) : Footprint where
  data := writesD i s
  address := writesA i s
  store p := i.wf = true → p ∈ stores i s
  status := statusPart i
  userStack := ∃ n, i = .moveAnUsp n

/-- One change of the state within a footprint, the ways an instruction ends apart. -/
inductive Move (w : Footprint) : State → State → Prop
  | read (s : State) (a : Word) (sz : Size) : Move w s (memRead s a sz).2
  | jump (s : State) (v : Word) : Move w s (s.setPc v)
  | draw (s : State) : Move w s { s with draws := s.draws + 1 }
  | flags (s : State) (f : Status) (hw : w.status ≠ .whole) (h : sameBut w.status s.sr f) : Move w s (s.setSr f)
  | data (s : State) (n : Reg) (v : Word) (h : n ∈ w.data) : Move w s (s.setD n v)
  | address (s : State) (n : Reg) (v : Word) (h : n ∈ w.address) : Move w s (s.setA n v)
  | store {s t : State} {a : Word} {sz : Size} {v : Word} (h : w.store (a, byteCount sz))
      (e : memWrite s a sz v = .ok t) : Move w s t

/-- Any number of moves. -/
abbrev Path (w : Footprint) : State → State → Prop := Relation.ReflTransGen (Move w)

/-- The last change of an instruction: none, the whole status word (`STOP`, `RTE` and the writes of `SR`), `USP`, or an
exception (60 R410). -/
inductive Ending (w : Footprint) : State → State → Prop
  | same (s : State) : Ending w s s
  | system (s : State) (f : Status) (pc : Word) (b : Bool) (h : w.status = .whole) :
      Ending w s { s with sr := f, pc := pc, stopped := b }
  | userStack (s : State) (v : Word) (h : w.userStack) : Ending w s { s with usp := v }
  | exception {s t : State} {vector : Byte} {ret : Word} (h : exceptionEntry vector ret .other s = .ok () t) : Ending w s t

/-- How a part of an instruction can end: with a value in a state of `P`, with a host-level fault in one of `F`, or refused
for a pulse-width mode. -/
structure Ends (P F : State → Prop) {α : Type} (m : M α) (s : State) : Prop where
  ok : ∀ a t, m s = .ok a t → P t
  fault : ∀ r t, m s = .error (.fault r) t → F t
  refused : ∀ r t, m s = .error (.refused r) t → r = .pwmModeUnspecified

/-- A part of an instruction that makes moves only. -/
def Follows (w : Footprint) {α : Type} (m : M α) (s : State) : Prop := Ends (Path w s) (Path w s) m s

/-- An instruction, or the rest of one: moves, then an ending. -/
def Completes (w : Footprint) {α : Type} (m : M α) (s : State) : Prop :=
  Ends (fun t => ∃ u, Path w s u ∧ Ending w u t) (Path w s) m s

/-! ## Rules for the parts -/

section
variable {w : Footprint} {α β : Type} {m : M α} {f : α → M β} {s t : State} {a : α}

theorem Ends.of_ok {P F : State → Prop} (h : m s = .ok a t) (hP : P t) : Ends P F m s where
  ok b u e := by rw [h] at e; cases e; exact hP
  fault r u e := by rw [h] at e; cases e
  refused r u e := by rw [h] at e; cases e

theorem Ends.of_fault {P F : State → Prop} {r : Fault} (h : m s = .error (.fault r) t) (hF : F t) : Ends P F m s where
  ok b u e := by rw [h] at e; cases e
  fault r u e := by rw [h] at e; cases e; exact hF
  refused r u e := by rw [h] at e; cases e

theorem Ends.mono {P Q F G : State → Prop} (h : Ends P F m s) (hP : ∀ t, P t → Q t) (hF : ∀ t, F t → G t) :
    Ends Q G m s where
  ok a t e := hP t (h.ok a t e)
  fault r t e := hF t (h.fault r t e)
  refused := h.refused

/-- A computation ends as another does that it runs like, from here. -/
theorem Ends.congr {P F : State → Prop} {m' : M α} (h : Ends P F m' t) (e : m s = m' t) : Ends P F m s where
  ok b u h' := h.ok b u (e ▸ h')
  fault r u h' := h.fault r u (e ▸ h')
  refused r u h' := h.refused r u (e ▸ h')

theorem Ends.bind {P Q F : State → Prop} (hm : Ends P F m s) (hf : ∀ a t, m s = .ok a t → P t → Ends Q F (f a) t) :
    Ends Q F (m >>= f) s := by
  cases hr : m s with
  | ok a t => exact (hf a t hr (hm.ok a t hr)).congr (run_bind_ok hr)
  | error e t =>
    have hb : (m >>= f) s = .error e t := run_bind_error hr
    refine ⟨fun b u h => ?_, fun r u h => ?_, fun r u h => ?_⟩ <;> rw [hb] at h <;> cases h
    · exact hm.fault r _ hr
    · exact hm.refused r _ hr

/-- A path before what follows. -/
theorem Follows.after (p : Path w s t) (h : Follows w m t) : Ends (Path w s) (Path w s) m t :=
  h.mono (fun _ => p.trans) (fun _ => p.trans)

theorem Completes.after (p : Path w s t) (h : Completes w m t) :
    Ends (fun t => ∃ u, Path w s u ∧ Ending w u t) (Path w s) m t :=
  h.mono (fun _ ⟨u, hu, he⟩ => ⟨u, p.trans hu, he⟩) (fun _ => p.trans)

theorem Follows.bind (hm : Follows w m s) (hf : ∀ a t, m s = .ok a t → Follows w (f a) t) : Follows w (m >>= f) s :=
  Ends.bind hm fun a t e p => (hf a t e).after p

theorem Follows.completes_bind (hm : Follows w m s) (hf : ∀ a t, m s = .ok a t → Completes w (f a) t) :
    Completes w (m >>= f) s :=
  Ends.bind hm fun a t e p => (hf a t e).after p

theorem Follows.completes (h : Follows w m s) : Completes w m s := h.mono (fun t p => ⟨t, p, .same t⟩) fun _ => id

theorem Follows.of_ok (h : m s = .ok a t) (p : Path w s t) : Follows w m s := Ends.of_ok h p

/-- A part that always answers, then the rest. -/
theorem Follows.step (h : m s = .ok a t) (p : Path w s t) (hf : Follows w (f a) t) : Follows w (m >>= f) s :=
  (Follows.of_ok h p).bind fun _ _ e => by rw [h] at e; cases e; exact hf

theorem Completes.step (h : m s = .ok a t) (p : Path w s t) (hf : Completes w (f a) t) : Completes w (m >>= f) s :=
  (Follows.of_ok h p).completes_bind fun _ _ e => by rw [h] at e; cases e; exact hf

theorem Completes.ending {m : M Unit} (h : m s = .ok () t) (e : Ending w s t) : Completes w m s :=
  Ends.of_ok h ⟨s, .refl, e⟩
end

/-! ## The parts of an instruction -/

section
variable {w : Footprint} {s : State}

theorem Path.read (a : Word) (sz : Size) : Path w s (memRead s a sz).2 := .single (.read s a sz)
theorem Path.jump (v : Word) : Path w s (s.setPc v) := .single (.jump s v)
theorem Path.draw : Path w s { s with draws := s.draws + 1 } := .single (.draw s)
theorem Path.data {n : Reg} (v : Word) (h : n ∈ w.data) : Path w s (s.setD n v) := .single (.data s n v h)
theorem Path.address {n : Reg} (v : Word) (h : n ∈ w.address) : Path w s (s.setA n v) := .single (.address s n v h)
/-- Register number 7 is the active stack pointer (10_state R24). -/
theorem Path.stack (v : Word) (h : 7 ∈ w.address) : Path w s (s.setSp v) := Path.address (n := 7) v h

theorem Path.fetch : Path w s (after1 s) := (Path.read s.pc .w).trans (Path.jump _)

theorem Path.readLoc (l : Loc) (sz : Size) : Path w s (readLocFrom s l sz).2 := by
  cases l with
  | mem a => exact Path.read a sz
  | dreg n => exact .refl
  | areg n => exact .refl
  | imm v => exact .refl

/-- The footprint allows the flags to change so. -/
def Footprint.Sets (w : Footprint) (g : Status → Status) : Prop := w.status ≠ .whole ∧ ∀ f, sameBut w.status f (g f)

theorem Path.flags {g : Status → Status} (h : w.Sets g) : Path w s (s.setSr (g s.sr)) :=
  .single (.flags s _ h.1 (h.2 s.sr))

theorem setFlags_follows {g : Status → Status} (h : w.Sets g) : Follows w (setFlags g) s := .of_ok rfl (.flags h)

theorem writeMem_follows {a : Word} {sz : Size} {v : Word} (h : w.store (a, byteCount sz)) :
    Follows w (writeMem a sz v) s := by
  cases hw : memWrite s a sz v with
  | ok t => exact .of_ok (run_writeMem_ok hw) (.single (.store h hw))
  | error r =>
    have e := run_writeMem_refused hw
    refine ⟨fun _ _ h => ?_, fun _ _ h => ?_, fun _ _ h => ?_⟩ <;> rw [e] at h <;> cases h
    exact (memWrite_refused hw).1

theorem fetch32_follows : Follows w fetch32 s := .of_ok rfl (Path.fetch.trans Path.fetch)

theorem fetchImm_follows (sz : Size) : Follows w (fetchImm sz) s := by
  cases sz with
  | b => exact .of_ok rfl .fetch
  | w => exact .of_ok rfl .fetch
  | l => exact fetch32_follows

theorem branchDisp_follows (d : Byte) : Follows w (branchDisp d) s := by
  unfold branchDisp
  split
  · exact .of_ok rfl .fetch
  · split
    · exact fetch32_follows
    · exact .of_ok rfl .refl

theorem indexDisp_follows (x : IndexWord) : Follows w (indexDisp x) s := by
  cases ht : x.tail with
  | brief d => rw [indexDisp_brief ht]; exact .of_ok rfl .refl
  | full bs is bd b3 iis =>
    rcases indexDisp_full ht with ⟨_, _, e⟩ | ⟨_, _, e⟩ | ⟨_, e⟩ <;> rw [e]
    · exact .of_ok rfl .fetch
    · exact fetch32_follows
    · exact Ends.of_fault rfl .refl

theorem indexAddress_follows (base : Word) : Follows w (indexAddress base) s :=
  .step rfl .fetch (.step rfl .refl ((indexDisp_follows _).bind fun _ _ _ => .of_ok rfl .refl))

/-- Resolving an operand steps the address register of the mode, if it steps one, and fetches. -/
theorem resolve_follows {e : Ea} (sz : Size) (h : ∀ n ∈ steps e, n ∈ w.address) : Follows w (resolve e sz) s := by
  cases e with
  | dn n => exact .of_ok rfl .refl
  | an n => exact .of_ok rfl .refl
  | ind n => exact .of_ok rfl .refl
  | postinc n => exact .of_ok rfl (.address _ (h n (.head _)))
  | predec n => exact .of_ok rfl (.address _ (h n (.head _)))
  | disp n => exact .of_ok rfl .fetch
  | index n => exact .step rfl .refl ((indexAddress_follows _).bind fun _ _ _ => .of_ok rfl .refl)
  | absW => exact .of_ok rfl .fetch
  | absL => exact .of_ok rfl (Path.fetch.trans Path.fetch)
  | pcDisp => exact .of_ok rfl .fetch
  | pcIndex => exact .step rfl .refl ((indexAddress_follows _).bind fun _ _ _ => .of_ok rfl .refl)
  | imm => exact (fetchImm_follows sz).bind fun _ _ _ => .of_ok rfl .refl

theorem readEa_follows {e : Ea} (sz : Size) (h : ∀ n ∈ steps e, n ∈ w.address) : Follows w (readEa e sz) s :=
  (resolve_follows sz h).bind fun l _ _ => .of_ok rfl (.readLoc l sz)

theorem resolveAddress_follows {e : Ea} (sz : Size) (h : ∀ n ∈ steps e, n ∈ w.address) :
    Follows w (resolveAddress e sz) s :=
  (resolve_follows sz h).bind fun _ _ _ => .of_ok rfl .refl

/-- The footprint allows a write through the locator. -/
def Footprint.Permits (w : Footprint) (sz : Size) : Loc → Prop
  | .dreg n => n ∈ w.data
  | .areg n => n ∈ w.address
  | .mem a => w.store (a, byteCount sz)
  | .imm _ => True

theorem writeLoc_follows {l : Loc} {sz : Size} (v : Word) (h : w.Permits sz l) : Follows w (writeLoc l sz v) s := by
  cases l with
  | dreg n => exact .of_ok rfl (.data _ h)
  | areg n => exact .of_ok rfl (.address _ h)
  | mem a => exact writeMem_follows h
  | imm v => exact .of_ok rfl .refl

theorem push_follows {sz : Size} (v : Word) (h7 : 7 ∈ w.address)
    (hs : w.store (s.sp - BitVec.ofNat 32 (byteCount sz), byteCount sz)) : Follows w (push sz v) s :=
  .step rfl (.stack _ h7) (.step rfl .refl (writeMem_follows (by rwa [State.sp_setSp])))

theorem pop_follows (sz : Size) (h7 : 7 ∈ w.address) : Follows w (pop sz) s :=
  .of_ok (run_pop sz s) ((Path.read _ _).trans (Path.stack _ h7))

/-! ## Exceptions -/

theorem writeMem_ends {a : Word} {sz : Size} {v : Word} : Ends (fun _ => True) (fun _ => False) (writeMem a sz v) s := by
  cases hw : memWrite s a sz v with
  | ok t => exact Ends.of_ok (run_writeMem_ok hw) trivial
  | error r =>
    have e := run_writeMem_refused hw
    refine ⟨fun _ _ _ => trivial, fun _ _ h => ?_, fun _ _ h => ?_⟩ <;> rw [e] at h <;> cases h
    exact (memWrite_refused hw).1

theorem push_ends {sz : Size} {v : Word} : Ends (fun _ => True) (fun _ => False) (push sz v) s :=
  writeMem_ends.congr (run_push sz v s)

theorem exceptionEntry_ends {vector : Byte} {ret : Word} {k : ExceptionKind} :
    Ends (fun _ => True) (fun _ => False) (exceptionEntry vector ret k) s :=
  .bind (P := fun _ => True) (.of_ok rfl trivial) fun _ _ _ _ => .bind (P := fun _ => True) (.of_ok rfl trivial) fun _ _ _ _ =>
    push_ends.bind fun _ _ _ _ => push_ends.bind fun _ _ _ _ => push_ends.bind fun _ _ _ _ => .of_ok rfl trivial

theorem exceptionEntry_completes (vector : Byte) (ret : Word) : Completes w (exceptionEntry vector ret .other) s where
  ok _ _ h := ⟨s, .refl, .exception h⟩
  fault r t h := (exceptionEntry_ends.fault r t h).elim
  refused := exceptionEntry_ends.refused

theorem raiseNext_completes (vector : Byte) : Completes w (raiseNext vector) s :=
  .step rfl .refl (exceptionEntry_completes _ _)

theorem privileged_completes {body : M Unit} (h : Completes w body s) : Completes w (privileged body) s := by
  refine .step rfl .refl ?_
  split
  · exact h
  · exact .step rfl .refl (exceptionEntry_completes _ _)
end
end
end Sys2Proof.Machine

namespace Sys2Proof.Machine

/-! # What moves leave unchanged -/

section
open Claims

/-! ## Registers depend on their own fields -/

theorem dreg_congr {s t : State} (h : t.d = s.d) (n : Reg) : t.dreg n = s.dreg n := by
  unfold State.dreg
  rw [h]

theorem areg_of_lt (s : State) {n : Reg} (h : n.val < 7) : s.areg n = s.a[n.val] := dif_pos h

theorem areg_congr {s t : State} {n : Reg} (hn : n.val < 7) (h : t.a = s.a) : t.areg n = s.areg n := by
  rw [areg_of_lt _ hn, areg_of_lt _ hn]
  simp only [h]

theorem sp_congr {s t : State} (hs : t.sr.s = s.sr.s) (hm : t.sr.m = s.sr.m) (hu : t.usp = s.usp) (hi : t.isp = s.isp)
    (hp : t.ssp = s.ssp) : t.sp = s.sp := by
  unfold State.sp
  rw [hs, hm, hu, hi, hp]

theorem reg_lt_of_ne {n : Reg} (h : n ≠ 7) : n.val < 7 :=
  lt_of_le_of_ne (Nat.le_of_lt_succ n.isLt) (Fin.val_ne_of_ne h)

/-- A write of an address register reaches at most one stack pointer: the active one. -/
theorem setA_usp {s : State} {n : Reg} (v : Word) (h : s.sr.s = true ∨ n ≠ 7) : (s.setA n v).usp = s.usp := by
  unfold State.setA State.setSp
  rcases h with h | h
  · simp only [h, if_true]
    split <;> [rfl; (split <;> rfl)]
  · rw [dif_pos (reg_lt_of_ne h)]

theorem setA_isp {s : State} {n : Reg} (v : Word) (h : s.sr.s = false ∨ s.sr.m = true ∨ n ≠ 7) :
    (s.setA n v).isp = s.isp := by
  unfold State.setA State.setSp
  rcases h with h | h | h
  · simp only [h]
    split <;> rfl
  · simp only [h, if_true]
    split <;> [rfl; (split <;> rfl)]
  · rw [dif_pos (reg_lt_of_ne h)]

theorem setA_ssp {s : State} {n : Reg} (v : Word) (h : s.sr.s = false ∨ s.sr.m = false ∨ n ≠ 7) :
    (s.setA n v).ssp = s.ssp := by
  unfold State.setA State.setSp
  rcases h with h | h | h
  · simp only [h]
    split <;> rfl
  · simp only [h]
    split <;> [rfl; (split <;> rfl)]
  · rw [dif_pos (reg_lt_of_ne h)]

/-! ## Reads, writes, and exceptions -/

theorem memRead_keeps (s : State) (a : Word) (sz : Size) :
    (memRead s a sz).2 = { s with dac := (memRead s a sz).2.dac } := by
  rcases memRead_state s a sz with h | h <;> rw [h]

/-- A push changes the stack pointer alone of the registers. -/
theorem push_ok {sz : Size} {v : Word} {s t : State} (h : push sz v s = .ok () t) : t.d = s.d ∧ t.a = s.a := by
  rw [run_push] at h
  unfold writeMem at h
  split at h
  · rename_i hw
    injection h with _ h
    rw [← h, memWrite_frame hw]
    exact ⟨State.setSp_d _ _, State.setSp_a _ _⟩
  · cases h

/-- Taking an exception changes no data register and none of `A0` to `A6`, and says so in `trap`. -/
theorem exceptionEntry_ok {vector : Byte} {ret : Word} {k : ExceptionKind} {s t : State}
    (h : exceptionEntry vector ret k s = .ok () t) : t.trap = true ∧ t.d = s.d ∧ t.a = s.a := by
  rw [run_exceptionEntry] at h
  obtain ⟨_, s1, h1, h⟩ := run_bind_inv h
  obtain ⟨_, s2, h2, h⟩ := run_bind_inv h
  obtain ⟨_, s3, h3, h⟩ := run_bind_inv h
  obtain ⟨_, s4, h4, h⟩ := run_bind_inv h
  obtain ⟨_, s5, h5, h⟩ := run_bind_inv h
  obtain ⟨d1, a1⟩ := push_ok h1
  obtain ⟨d2, a2⟩ := push_ok h2
  obtain ⟨d3, a3⟩ := push_ok h3
  cases h4
  cases h5
  cases h
  refine ⟨rfl, ?_, ?_⟩ <;> rw [memRead_keeps]
  · exact d3.trans (d2.trans d1)
  · exact a3.trans (a2.trans a1)

/-! ## Moves -/

section
variable {w : Footprint} {s t : State}

theorem Move.dreg (h : Move w s t) {n : Reg} (hn : n ∉ w.data) : t.dreg n = s.dreg n := by
  cases h with
  | read a sz => rw [memRead_keeps]; rfl
  | jump v => rfl
  | draw => rfl
  | flags f => rfl
  | data m v hm => exact State.dreg_setD_other s v fun e => hn (e ▸ hm)
  | address m v hm => exact State.dreg_setA s m n v
  | store _ e => rw [memWrite_frame e]; rfl

theorem Move.areg (h : Move w s t) {n : Reg} (h7 : n.val < 7) (hn : n ∉ w.address) : t.areg n = s.areg n := by
  cases h with
  | read a sz => exact areg_congr h7 (by rw [memRead_keeps])
  | jump v => rfl
  | draw => rfl
  | flags f => exact areg_congr h7 rfl
  | data m v hm => rfl
  | address m v hm => exact State.areg_setA_other s v fun e => hn (e ▸ hm)
  | store _ e => exact areg_congr h7 (by rw [memWrite_frame e])

/-- The system byte, of which `S` and `M` select the stack pointer, is not changed by a move. -/
theorem sameBut_mode {p : StatusPart} {f g : Status} (hp : p ≠ .whole) (h : sameBut p f g) : g.s = f.s ∧ g.m = f.m := by
  cases p with
  | whole => exact absurd rfl hp
  | nothing => rw [show g = f from h]; exact ⟨rfl, rfl⟩
  | zero => rw [show g = _ from h]; exact ⟨rfl, rfl⟩
  | nzvc => rw [show g = _ from h]; exact ⟨rfl, rfl⟩
  | flags => rw [show g = _ from h]; exact ⟨rfl, rfl⟩

theorem Move.mode (h : Move w s t) : t.sr.s = s.sr.s ∧ t.sr.m = s.sr.m := by
  cases h with
  | read a sz => rw [memRead_keeps]; exact ⟨rfl, rfl⟩
  | jump v => exact ⟨rfl, rfl⟩
  | draw => exact ⟨rfl, rfl⟩
  | flags f hw hf => exact sameBut_mode hw hf
  | data m v hm => exact ⟨rfl, rfl⟩
  | address m v hm => rw [State.setA_sr]; exact ⟨rfl, rfl⟩
  | store _ e => rw [memWrite_frame e]; exact ⟨rfl, rfl⟩

/-- No stack pointer but the active one moves, and it only where register 7 may be written (10_state R24). -/
structure StacksKept (w : Footprint) (s t : State) : Prop where
  usp : s.sr.s = true ∨ 7 ∉ w.address → t.usp = s.usp
  isp : s.sr.s = false ∨ s.sr.m = true ∨ 7 ∉ w.address → t.isp = s.isp
  ssp : s.sr.s = false ∨ s.sr.m = false ∨ 7 ∉ w.address → t.ssp = s.ssp

theorem Move.stacks (h : Move w s t) : StacksKept w s t := by
  cases h with
  | read a sz => rw [memRead_keeps]; exact ⟨fun _ => rfl, fun _ => rfl, fun _ => rfl⟩
  | jump v => exact ⟨fun _ => rfl, fun _ => rfl, fun _ => rfl⟩
  | draw => exact ⟨fun _ => rfl, fun _ => rfl, fun _ => rfl⟩
  | flags f => exact ⟨fun _ => rfl, fun _ => rfl, fun _ => rfl⟩
  | data m v hm => exact ⟨fun _ => rfl, fun _ => rfl, fun _ => rfl⟩
  | address m v hm =>
    have h7 : 7 ∉ w.address → m ≠ 7 := fun h e => h (e ▸ hm)
    exact ⟨fun h => setA_usp v (h.imp_right h7), fun h => setA_isp v (h.imp_right (Or.imp_right h7)),
      fun h => setA_ssp v (h.imp_right (Or.imp_right h7))⟩
  | store _ e => rw [memWrite_frame e]; exact ⟨fun _ => rfl, fun _ => rfl, fun _ => rfl⟩

/-! ## Paths -/

theorem Path.dreg (h : Path w s t) {n : Reg} (hn : n ∉ w.data) : t.dreg n = s.dreg n := by
  induction h with
  | refl => rfl
  | tail _ m ih => exact (m.dreg hn).trans ih

theorem Path.areg (h : Path w s t) {n : Reg} (h7 : n.val < 7) (hn : n ∉ w.address) : t.areg n = s.areg n := by
  induction h with
  | refl => rfl
  | tail _ m ih => exact (m.areg h7 hn).trans ih

theorem Path.mode (h : Path w s t) : t.sr.s = s.sr.s ∧ t.sr.m = s.sr.m := by
  induction h with
  | refl => exact ⟨rfl, rfl⟩
  | tail _ m ih => exact ⟨m.mode.1.trans ih.1, m.mode.2.trans ih.2⟩

theorem Path.stacks (h : Path w s t) : StacksKept w s t := by
  induction h with
  | refl => exact ⟨fun _ => rfl, fun _ => rfl, fun _ => rfl⟩
  | tail p m ih =>
    obtain ⟨hs, hm⟩ := Path.mode p
    obtain ⟨hu, hi, hp⟩ := m.stacks
    rw [hs] at hu hi hp
    rw [hm] at hi hp
    exact ⟨fun h => (hu h).trans (ih.usp h), fun h => (hi h).trans (ih.isp h), fun h => (hp h).trans (ih.ssp h)⟩

/-- Where register 7 is not written, the active stack pointer stays. -/
theorem Path.sp (h : Path w s t) (h7 : 7 ∉ w.address) : t.sp = s.sp :=
  sp_congr h.mode.1 h.mode.2 (h.stacks.usp (.inr h7)) (h.stacks.isp (.inr (.inr h7))) (h.stacks.ssp (.inr (.inr h7)))

/-- `Path.areg`, with `A7` the active stack pointer. -/
theorem Path.areg_any (h : Path w s t) {n : Reg} (hn : n ∉ w.address) : t.areg n = s.areg n := by
  by_cases h7 : n = 7
  · subst h7
    exact Path.sp h hn
  · exact Path.areg h (reg_lt_of_ne h7) hn
end

/-! ## A latched fault (60 R420; log 8) -/

theorem latchFault_dreg {s u : State} {r : Fault} {n : Reg} (h : u.dreg n = s.dreg n) :
    (latchFault s u r).dreg n = s.dreg n := by
  have h' : u.d[n.val] = s.d[n.val] := h
  simp [State.dreg, latchFault, afterFault, h']

theorem latchFault_areg {s u : State} {r : Fault} {n : Reg} (h7 : n.val < 7) (h : u.areg n = s.areg n) :
    (latchFault s u r).areg n = s.areg n := by
  rw [areg_of_lt _ h7, areg_of_lt _ h7] at *
  simp [latchFault, afterFault, h]

theorem latchFault_usp {s u : State} {r : Fault} (h : u.usp = s.usp) : (latchFault s u r).usp = s.usp := by
  simp only [latchFault, afterFault, h, if_true]
theorem latchFault_isp {s u : State} {r : Fault} (h : u.isp = s.isp) : (latchFault s u r).isp = s.isp := by
  simp only [latchFault, afterFault, h, if_true]
theorem latchFault_ssp {s u : State} {r : Fault} (h : u.ssp = s.ssp) : (latchFault s u r).ssp = s.ssp := by
  simp only [latchFault, afterFault, h, if_true]
end
end Sys2Proof.Machine

namespace Sys2Proof.Machine

/-! # The shapes of instructions, and what their footprints allow -/

section
open Claims

/-! ## What the footprint of an instruction holds -/

theorem steps_written {i : Instr} {sz : Size} {e : Ea} (h : written i = some (sz, e)) (s : State) :
    ∀ n ∈ steps e, n ∈ (footprint i s).address := by
  intro n hn
  have : n ∈ writesA i s := by
    simp only [writesA, h]
    cases e with
    | postinc m => exact List.mem_append_left _ (List.mem_append_left _ hn)
    | predec m => exact List.mem_append_left _ (List.mem_append_left _ hn)
    | _ => cases hn
  exact this

theorem steps_consulted {i : Instr} {e : Ea} (h : e ∈ consulted i) (s : State) :
    ∀ n ∈ steps e, n ∈ (footprint i s).address := fun _ hn =>
  List.mem_append_left _ (List.mem_append_right _ (List.mem_flatMap.mpr ⟨e, h, hn⟩))

/-- An instruction that writes an effective address stores there and nowhere else. -/
theorem stores_written {i : Instr} {sz : Size} {e : Ea} (h : written i = some (sz, e)) {s t : State} {a : Word}
    (hr : (beforeWritten i >>= fun _ => resolve e sz) s = .ok (.mem a) t) : stores i s = [(a, byteCount sz)] := by
  unfold stores
  split <;> first | cases h | skip
  simp only [h, hr]

/-- The footprint allows the operand `e`, resolved in `s`, to be written. -/
structure Writable (w : Footprint) (sz : Size) (e : Ea) (s : State) : Prop where
  steps : ∀ n ∈ steps e, n ∈ w.address
  permits : ∀ l t, resolve e sz s = .ok l t → w.Permits sz l

/-- The operand that an instruction writes, where the instruction resolves it. -/
theorem writable {i : Instr} {sz : Size} {e : Ea} {s s0 : State} (h : written i = some (sz, e))
    (hb : beforeWritten i s = .ok () s0) : Writable (footprint i s) sz e s0 where
  steps := steps_written h s
  permits l t hr := by
    have hl := resolve_isOf hr
    cases l with
    | dreg n =>
      have he : e = .dn n := by
        cases e with
        | dn m => cases hl; rfl
        | an m => cases hl
        | imm => obtain ⟨_, hl, _⟩ := hl; cases hl
        | _ => obtain ⟨_, hl⟩ := hl; cases hl
      subst he
      show n ∈ writesD i s
      simp [writesD, h]
    | areg n =>
      have he : e = .an n := by
        cases e with
        | dn m => cases hl
        | an m => cases hl; rfl
        | imm => obtain ⟨_, hl, _⟩ := hl; cases hl
        | _ => obtain ⟨_, hl⟩ := hl; cases hl
      subst he
      show n ∈ writesA i s
      simp [writesA, h]
    | mem a =>
      intro _
      rw [stores_written h ((run_bind_ok hb).trans hr)]
      exact .head _
    | imm v => trivial

/-- Which part of the status word a change names shows in its definition. -/
theorem Footprint.Sets.of {w : Footprint} {g : Status → Status} (p : StatusPart) (h : w.status = p)
    (hp : p ≠ .whole := by nofun) (hg : ∀ f, sameBut p f (g f) := by exact fun _ => rfl) : w.Sets g := by
  subst h
  exact ⟨hp, hg⟩

/-! ## The shapes of instructions -/

section
variable {w : Footprint} {s : State}

theorem Writable.bind {sz : Size} {e : Ea} (h : Writable w sz e s) {α : Type} {f : Loc → M α}
    (hf : ∀ l t, w.Permits sz l → Completes w (f l) t) : Completes w (resolve e sz >>= f) s :=
  (resolve_follows sz h.steps).completes_bind fun l t e => hf l t (h.permits l t e)

/-- The tail of most instructions: one write, then the flags. -/
theorem write_flags_completes {l : Loc} {sz : Size} {v : Word} {g : Status → Status} (hl : w.Permits sz l)
    (hg : w.Sets g) : Completes w (writeLoc l sz v >>= fun _ => setFlags g) s :=
  (writeLoc_follows v hl).completes_bind fun _ _ _ => (setFlags_follows hg).completes

theorem setD_flags_completes {n : Reg} {k : State → State} {v : State → Word} {g : Status → Status} (hn : n ∈ w.data)
    (hk : ∀ s, k s = s.setD n (v s)) (hg : w.Sets g) : Completes w (change k >>= fun _ => setFlags g) s :=
  .step rfl (hk s ▸ Path.data _ hn) (setFlags_follows hg).completes

theorem change_completes {f : State → State} (p : Path w s (f s)) : Completes w (change f) s :=
  (Follows.of_ok (m := change f) rfl p).completes

theorem eaToDn_completes {n : Reg} {sz : Size} {src : Ea} {op : Word → Word → Word}
    {g : Word → Word → Status → Status} (hs : ∀ m ∈ steps src, m ∈ w.address) (hn : n ∈ w.data)
    (hg : ∀ a b, w.Sets (g a b)) : Completes w (eaToDn n sz src op g) s :=
  (readEa_follows sz hs).completes_bind fun _ _ _ =>
    .step rfl .refl (setD_flags_completes hn (fun _ => rfl) (hg _ _))

theorem dnToEa_completes {n : Reg} {sz : Size} {dst : Ea} {op : Word → Word → Word}
    {g : Word → Word → Status → Status} (hd : Writable w sz dst s) (hg : ∀ a b, w.Sets (g a b)) :
    Completes w (dnToEa n sz dst op g) s :=
  hd.bind fun l _ hl => .step rfl (.readLoc l sz) (.step rfl .refl (write_flags_completes hl (hg _ _)))

theorem immToEa_completes {sz : Size} {dst : Ea} {op : Word → Word → Word} {g : Word → Word → Status → Status}
    (hd : ∀ v s0, fetchImm sz s = .ok v s0 → Writable w sz dst s0) (hg : ∀ a b, w.Sets (g a b)) :
    Completes w (immToEa sz dst op g) s :=
  (fetchImm_follows sz).completes_bind fun v s0 h => (hd v s0 h).bind fun l _ hl =>
    .step rfl (.readLoc l sz) (write_flags_completes hl (hg _ _))

theorem unaryEa_completes {sz : Size} {dst : Ea} {op : Status → Word → Word} {g : Word → Status → Status}
    (hd : Writable w sz dst s) (hg : ∀ a, w.Sets (g a)) : Completes w (unaryEa sz dst op g) s :=
  hd.bind fun l _ hl => .step rfl (.readLoc l sz) (.step rfl .refl (write_flags_completes hl (hg _)))

/-- Where the two operands of a pair are allowed. -/
def PairAllowed (w : Footprint) (sz : Size) (x y : Reg) (s : State) : PairMode → Prop
  | .regs => x ∈ w.data
  | .predec => y ∈ w.address ∧ ∀ v s0, readEa (.predec y) sz s = .ok v s0 → Writable w sz (.predec x) s0

theorem PairAllowed.bind {sz : Size} {x y : Reg} {m : PairMode} (h : PairAllowed w sz x y s m)
    {f : Word × Loc × Word → M Unit} (hf : ∀ o t, w.Permits sz o.2.1 → Completes w (f o) t) :
    Completes w (pairOperands sz x m y >>= f) s := by
  cases m with
  | regs => exact .step rfl .refl (hf _ _ h)
  | predec =>
    obtain ⟨hy, hx⟩ := h
    have hs : Follows w (readEa (.predec y) sz) s := readEa_follows sz fun n hn => by
      rw [List.mem_singleton.mp hn]
      exact hy
    refine Ends.congr (t := s) (m' := readEa (.predec y) sz >>= fun v => resolve (.predec x) sz >>= fun l =>
      readLoc l sz >>= fun d => f (v, l, d)) ?_ ?_
    · exact hs.completes_bind fun v s0 h0 => (hx v s0 h0).bind fun l t hl => .step rfl (.readLoc l sz) (hf _ _ hl)
    · simp only [pairOperands, run_bind, run_pure, run_readLoc]
      rfl

theorem extendedOp_completes {x y : Reg} {sz : Size} {m : PairMode} {op : Word → Word → Bool → Word}
    {g : Word → Word → Status → Status} (h : PairAllowed w sz x y s m) (hg : ∀ a b, w.Sets (g a b)) :
    Completes w (extendedOp x sz m y op g) s :=
  h.bind fun _ _ hl => .step rfl .refl (write_flags_completes hl (hg _ _))

theorem addressOp_completes {sz : Size} {n : Reg} {src : Ea} {op : Word → Word → Word}
    (hs : ∀ m ∈ steps src, m ∈ w.address) (hn : n ∈ w.address) : Completes w (addressOp sz n src op) s :=
  (readEa_follows sz hs).completes_bind fun _ _ _ => change_completes (.address _ hn)

theorem moveaOp_completes {sz : Size} {n : Reg} {src : Ea} (hs : ∀ m ∈ steps src, m ∈ w.address)
    (hn : n ∈ w.address) : Completes w (moveaOp sz n src) s :=
  (readEa_follows sz hs).completes_bind fun _ _ _ => change_completes (.address _ hn)

theorem compareAddress_completes {sz : Size} {n : Reg} {src : Ea} (hs : ∀ m ∈ steps src, m ∈ w.address)
    (hg : ∀ a b, w.Sets (flagsCmp .l a b)) : Completes w (compareAddress sz n src) s :=
  (readEa_follows sz hs).completes_bind fun _ _ _ => .step rfl .refl (setFlags_follows (hg _ _)).completes

/-- Away from an address register, `ADDQ` and `SUBQ` are a change in place. -/
theorem quickOp_eq {q : Reg} {sz : Size} {dst : Ea} {op addr : Word → Word → Word} {g : Word → Word → Status → Status}
    (h : dst.isAn = false) : quickOp q sz dst op addr g =
      unaryEa sz dst (fun _ d => op (BitVec.ofNat 32 (quickData q)) d) (g (BitVec.ofNat 32 (quickData q))) := by
  cases dst with
  | an n => cases h
  | _ => rfl

theorem quickOp_completes {q : Reg} {sz : Size} {dst : Ea} {op addr : Word → Word → Word}
    {g : Word → Word → Status → Status} (hd : Writable w sz dst s) (hg : dst.isAn = false → ∀ a b, w.Sets (g a b)) :
    Completes w (quickOp q sz dst op addr g) s := by
  cases h : dst.isAn with
  | true =>
    cases dst with
    | an n => exact change_completes (.address _ (hd.permits _ _ rfl))
    | _ => cases h
  | false =>
    rw [quickOp_eq h]
    exact unaryEa_completes hd (hg h _)

/-! ### Bits, shifts, logic, moves -/

theorem bitTest_completes {e : Ea} {bn : Nat} (hs : ∀ m ∈ steps e, m ∈ w.address)
    (hg : ∀ b : Bool, w.Sets fun f => { f with z := b }) : Completes w (bitTest e bn) s :=
  (readEa_follows _ hs).completes_bind fun _ _ _ => (setFlags_follows (hg _)).completes

theorem bitChange_completes {e : Ea} {bn : Nat} {op : Word → Word → Word} (hd : Writable w (bitSize e) e s)
    (hg : ∀ b : Bool, w.Sets fun f => { f with z := b }) : Completes w (bitChange e bn op) s :=
  hd.bind fun l _ hl => .step rfl (.readLoc l _) (.step rfl (.flags (hg _)) (writeLoc_follows _ hl).completes)

theorem shiftReg_completes {k : ShiftKind} {c : ShiftCount} {sz : Size} {n : Reg} (hn : n ∈ w.data)
    (hg : ∀ count v, w.Sets fun f => f.shifted sz (shiftRun k sz count v f.x)) : Completes w (shiftReg k c sz n) s :=
  .step rfl .refl (.step rfl .refl (.step rfl .refl (write_flags_completes (l := .dreg n) hn (hg _ _))))

theorem shiftMem_completes {k : ShiftKind} {dst : Ea} (hd : Writable w .w dst s)
    (hg : ∀ count v, w.Sets fun f => f.shifted .w (shiftRun k .w count v f.x)) : Completes w (shiftMem k dst) s :=
  hd.bind fun l _ hl => .step rfl (.readLoc l _) (.step rfl .refl (write_flags_completes hl (hg _ _)))

theorem moveOp_completes {sz : Size} {dst src : Ea} (hs : ∀ m ∈ steps src, m ∈ w.address)
    (hd : ∀ v s0, readEa src sz s = .ok v s0 → Writable w sz dst s0) (hg : ∀ v, w.Sets fun f => f.logic sz v) :
    Completes w (moveOp sz dst src) s :=
  (readEa_follows sz hs).completes_bind fun v s0 h => (hd v s0 h).bind fun _ _ hl => write_flags_completes hl (hg v)

theorem logicEaDn_completes {n : Reg} {sz : Size} {src : Ea} {op : Word → Word → Word}
    (hs : ∀ m ∈ steps src, m ∈ w.address) (hn : n ∈ w.data) (hg : ∀ v, w.Sets (flagsLogic sz v)) :
    Completes w (logicEaDn n sz src op) s :=
  eaToDn_completes (g := fun a b => flagsLogic sz (op a b)) hs hn fun _ _ => hg _

theorem logicDnEa_completes {n : Reg} {sz : Size} {dst : Ea} {op : Word → Word → Word} (hd : Writable w sz dst s)
    (hg : ∀ v, w.Sets (flagsLogic sz v)) : Completes w (logicDnEa n sz dst op) s :=
  dnToEa_completes (g := fun a b => flagsLogic sz (op a b)) hd fun _ _ => hg _

theorem logicImm_completes {sz : Size} {dst : Ea} {op : Word → Word → Word}
    (hd : ∀ v s0, fetchImm sz s = .ok v s0 → Writable w sz dst s0) (hg : ∀ v, w.Sets (flagsLogic sz v)) :
    Completes w (logicImm sz dst op) s :=
  immToEa_completes (g := fun a b => flagsLogic sz (op a b)) hd fun _ _ => hg _

theorem logicCcr_completes {op : Half → Half → Half} (hg : ∀ v : Status → Half, w.Sets fun f => f.withCcr (v f)) :
    Completes w (logicCcr op) s :=
  .step rfl .fetch (setFlags_follows (hg _)).completes

/-- Writing the whole status word is an ending. -/
theorem setStatus_completes (g : Status → Status) (h : w.status = .whole) : Completes w (setFlags g) s :=
  .ending rfl (.system s _ s.pc s.stopped h)

theorem logicSr_completes {op : Half → Half → Half} (h : w.status = .whole) : Completes w (logicSr op) s :=
  privileged_completes (.step rfl .fetch (setStatus_completes _ h))

/-! ### Decimals and division -/

theorem drawBit_bind {α : Type} {f : Bool → M α} (h : ∀ b t, Completes w (f b) t) : Completes w (drawBit >>= f) s :=
  .step rfl .draw (h _ _)

theorem bcdFinish_completes {l : Loc} {valid : Bool} {t : Int} {carry : Bool} (hl : w.Permits .b l)
    (hw : w.status = .flags) : Completes w (bcdFinish l valid t carry) s := by
  refine drawBit_bind fun n s1 => drawBit_bind fun v s2 => ?_
  cases valid with
  | true => exact write_flags_completes hl (.of .flags hw)
  | false =>
    refine .step rfl .draw (drawBit_bind fun x s3 => drawBit_bind fun z s4 => drawBit_bind fun c s5 => ?_)
    exact write_flags_completes hl (.of .flags hw)

theorem divideByZero_completes (hw : w.status = .nzvc) : Completes w divideByZero s := by
  refine drawBit_bind fun n _ => drawBit_bind fun z _ => drawBit_bind fun v _ => ?_
  refine (setFlags_follows ?_).completes_bind fun _ _ _ => raiseNext_completes 5
  exact .of .nzvc hw

theorem divideOverflow_completes (hw : w.status = .nzvc) : Completes w divideOverflow s := by
  refine drawBit_bind fun n _ => drawBit_bind fun z _ => (setFlags_follows ?_).completes
  exact .of .nzvc hw

theorem divideResult_completes {n : Reg} {q r : Half} (hn : n ∈ w.data) (hw : w.status = .nzvc) :
    Completes w (divideResult n q r) s :=
  setD_flags_completes hn (fun _ => rfl) (.of .nzvc hw)

/-- A division: by zero, with a quotient that does not fit, or with a result. -/
theorem divide_completes {n : Reg} {q r : Half} {zero large : Prop} [Decidable zero] [Decidable large] (hn : n ∈ w.data)
    (hw : w.status = .nzvc) :
    Completes w (if zero then divideByZero else if large then divideOverflow else divideResult n q r) s := by
  split
  · exact divideByZero_completes hw
  · split
    · exact divideOverflow_completes hw
    · exact divideResult_completes hn hw

/-! ### Register lists -/

theorem storeDown_follows {sz : Size} (l : List Word) (a : Word)
    (h : ∀ j < l.length, w.store (a - BitVec.ofNat 32 (byteCount sz * (j + 1)), byteCount sz)) (s : State) :
    Follows w (storeDown sz l a) s := by
  induction l generalizing a s with
  | nil => exact .of_ok rfl .refl
  | cons v rest ih =>
    have h0 : w.store (a - BitVec.ofNat 32 (byteCount sz), byteCount sz) := by simpa using h 0 (Nat.succ_pos _)
    refine (writeMem_follows h0).bind fun _ t _ => ih _ (fun j hj => ?_) t
    have e : a - BitVec.ofNat 32 (byteCount sz) - BitVec.ofNat 32 (byteCount sz * (j + 1)) =
        a - BitVec.ofNat 32 (byteCount sz * (j + 1 + 1)) := by
      rw [Nat.mul_succ _ (j + 1), BitVec.ofNat_add]
      ring
    rw [e]
    exact h (j + 1) (Nat.succ_lt_succ hj)

theorem storeUp_follows {sz : Size} (l : List (Fin 16)) (a : Word)
    (h : ∀ j < l.length, w.store (a + BitVec.ofNat 32 (byteCount sz * j), byteCount sz)) (s : State) :
    Follows w (storeUp sz l a) s := by
  induction l generalizing a s with
  | nil => exact .of_ok rfl .refl
  | cons i rest ih =>
    have h0 : w.store (a, byteCount sz) := by simpa using h 0 (Nat.succ_pos _)
    refine .step rfl .refl ((writeMem_follows h0).bind fun _ t _ => ih _ (fun j hj => ?_) t)
    have e : a + BitVec.ofNat 32 (byteCount sz) + BitVec.ofNat 32 (byteCount sz * j) =
        a + BitVec.ofNat 32 (byteCount sz * (j + 1)) := by
      rw [Nat.mul_succ, BitVec.ofNat_add, BitVec.add_assoc, BitVec.add_comm (BitVec.ofNat 32 (byteCount sz))]
    rw [e]
    exact h (j + 1) (Nat.succ_lt_succ hj)

theorem loadUp_follows {sz : Size} (l : List (Fin 16)) (a : Word)
    (hd : ∀ i ∈ l, i.val < 8 → Fin.ofNat 8 i.val ∈ w.data)
    (ha : ∀ i ∈ l, ¬ i.val < 8 → Fin.ofNat 8 (i.val - 8) ∈ w.address) (s : State) : Follows w (loadUp sz l a) s := by
  induction l generalizing a s with
  | nil => exact .of_ok rfl .refl
  | cons i rest ih =>
    have p : ∀ (t : State) (v : Word), Path w t (t.setReg16 i v) := by
      intro t v
      unfold State.setReg16
      split
      · exact .data v (hd i (.head _) (by assumption))
      · exact .address v (ha i (.head _) (by assumption))
    exact .step rfl (.read a sz) (.step rfl (p _ _)
      (ih _ (fun k hk => hd k (.tail _ hk)) (fun k hk => ha k (.tail _ hk)) _))

theorem movepStore_follows (l : List Byte) (a : Word)
    (h : ∀ j < l.length, w.store (a + BitVec.ofNat 32 (2 * j), 1)) (s : State) : Follows w (movepStore l a) s := by
  induction l generalizing a s with
  | nil => exact .of_ok rfl .refl
  | cons b rest ih =>
    have h0 : w.store (a, 1) := by simpa using h 0 (Nat.succ_pos _)
    refine (writeMem_follows (sz := .b) h0).bind fun _ t _ => ih _ (fun j hj => ?_) t
    have e : a + BitVec.ofNat 32 2 + BitVec.ofNat 32 (2 * j) = a + BitVec.ofNat 32 (2 * (j + 1)) := by
      rw [Nat.mul_succ, BitVec.ofNat_add, BitVec.add_assoc, BitVec.add_comm (BitVec.ofNat 32 2)]
    exact e ▸ h (j + 1) (Nat.succ_lt_succ hj)

theorem movepLoad_follows (k : Nat) (v a : Word) (s : State) : Follows w (movepLoad k v a) s := by
  induction k generalizing v a s with
  | zero => exact .of_ok rfl .refl
  | succ k ih => exact .step rfl (.read a .b) (ih _ _ _)

end
end
end Sys2Proof.Machine

namespace Sys2Proof.Machine

/-! # Every instruction completes within its footprint -/

section
open Claims

/-- The instruction runs a body that completes within the instruction's footprint. -/
def Bounded (i : Instr) (s : State) : Prop := ∃ m, exec i s = finish m s ∧ Completes (footprint i s) m s

/-- The footprint of a part that only reads. -/
def readsOnly : Footprint := ⟨[], [], fun _ => False, .nothing, False⟩

/-- A part that only reads leaves every address register as it was, `A7` included. -/
theorem Follows.areg {α : Type} {m : M α} {s t : State} {a : α} (h : Follows readsOnly m s) (e : m s = .ok a t) (n : Reg) :
    t.areg n = s.areg n := Path.areg_any (h.ok a t e) nofun

theorem after1_areg (s : State) (n : Reg) : (after1 s).areg n = s.areg n := Path.areg_any (w := readsOnly) Path.fetch nofun

theorem steps_control {e : Ea} (h : e.isControl = true) : steps e = [] := by
  cases e with
  | postinc n => cases h
  | predec n => cases h
  | _ => rfl

/-- The control modes step no register, so they leave the stack pointer. -/
theorem resolveAddress_sp {e : Ea} {sz : Size} {s t : State} {a : Word} (he : e.isControl = true)
    (h : resolveAddress e sz s = .ok a t) : t.sp = s.sp :=
  Follows.areg (resolveAddress_follows sz fun n hn => by rw [steps_control he] at hn; cases hn) h 7

section
variable {s : State}

/-! ## Data movement -/

theorem lea_bounded (n : Reg) (src : Ea) : Bounded (.lea n src) s :=
  ⟨_, rfl, (resolveAddress_follows .l (steps_consulted (i := .lea n src) (.head _) s)).completes_bind fun _ _ _ =>
    change_completes (.address _ (List.mem_append_right _ (.head _)))⟩

theorem pea_bounded (src : Ea) : Bounded (.pea src) s := by
  refine ⟨_, rfl, (resolveAddress_follows .l (steps_consulted (i := .pea src) (.head _) s)).completes_bind fun a t h => ?_⟩
  refine (push_follows a (List.mem_append_right _ (.head _)) fun hwf => ?_).completes
  rw [resolveAddress_sp hwf h]
  exact .head _

theorem exgDD_bounded (x y : Reg) : Bounded (.exgDD x y) s := by
  refine ⟨change fun s => (s.setD x (s.dreg y)).setD y (s.dreg x), rfl, change_completes ?_⟩
  exact (Path.data _ (.head _)).trans (Path.data _ (.tail _ (.head _)))

theorem exgAA_bounded (x y : Reg) : Bounded (.exgAA x y) s := by
  refine ⟨change fun s => (s.setA x (s.areg y)).setA y (s.areg x), rfl, change_completes ?_⟩
  exact (Path.address _ (.head _)).trans (Path.address _ (.tail _ (.head _)))

theorem exgDA_bounded (x y : Reg) : Bounded (.exgDA x y) s := by
  refine ⟨change fun s => (s.setD x (s.areg y)).setA y (s.dreg x), rfl, change_completes ?_⟩
  exact (Path.data _ (.head _)).trans (Path.address _ (.head _))

/-- `LINK` once the value to push is known: the push is where the stack pointer was when the instruction started. -/
theorem link_push_completes {n : Reg} {d v : Word} {t : State} (hsp : t.sp = s.sp) :
    Completes (footprint (.link n) s) (push .l v >>= fun _ => look State.sp >>= fun sp =>
      change (fun s => s.setA n sp) >>= fun _ => change fun s => s.setSp (s.sp + d)) t := by
  refine (push_follows v (.tail _ (.head _)) fun _ => ?_).completes_bind fun _ u _ => ?_
  · rw [hsp]
    exact .head _
  · exact .step rfl .refl (.step rfl (.address _ (.head _)) (change_completes (.stack _ (.tail _ (.head _)))))

theorem link_bounded (n : Reg) : Bounded (.link n) s := by
  refine ⟨_, rfl, .step rfl .fetch ?_⟩
  have hsp : (after1 s).sp = s.sp := after1_areg s 7
  dsimp only
  split
  · exact .step rfl .draw (link_push_completes hsp)
  · exact .step rfl .refl (link_push_completes hsp)

theorem unlk_bounded (n : Reg) : Bounded (.unlk n) s := by
  have h7 : 7 ∈ (footprint (.unlk n) s).address := .tail _ (.head _)
  refine ⟨_, rfl, .step rfl .refl (.step rfl (.stack _ h7) ((pop_follows .l h7).completes_bind fun v t _ => ?_))⟩
  split
  · exact .step rfl .draw (change_completes (.stack _ h7))
  · exact change_completes (.address _ (.head _))

theorem moveq_bounded (n : Reg) (d : Byte) : Bounded (.moveq n d) s :=
  ⟨change (fun s => s.setD n (d.signExtend 32)) >>= fun _ => setFlags fun f => f.logic .l (d.signExtend 32), rfl,
    setD_flags_completes (v := fun _ => d.signExtend 32) (.head _) (fun _ => rfl) (.of .nzvc rfl)⟩

/-! ### Register lists -/

theorem named_eq_length (m : Half) : named m = (maskBits m).length := by
  have h : List.range 16 = (List.ofFn fun i : Fin 16 => i).map Fin.val := by decide
  rw [named, h, List.filter_map, List.length_map]
  rfl

theorem mem_spread {a : Word} {w k j : Nat} (h : j < k) :
    (a + BitVec.ofNat 32 (w * j), w) ∈ (spread a w k).map fun a => (a, w) :=
  List.mem_map_of_mem (List.mem_map_of_mem (List.mem_range.mpr h))

/-- The addresses of the downward stores are those of the block that ends where they start. -/
theorem mem_spread_down {a : Word} {w k j : Nat} (h : j < k) :
    (a - BitVec.ofNat 32 (w * (j + 1)), w) ∈ (spread (a - BitVec.ofNat 32 (w * k)) w k).map fun a => (a, w) := by
  have e : a - BitVec.ofNat 32 (w * (j + 1)) = a - BitVec.ofNat 32 (w * k) + BitVec.ofNat 32 (w * (k - 1 - j)) := by
    have hk : w * k = w * (j + 1) + w * (k - 1 - j) := by
      rw [← Nat.mul_add]
      congr 1
      omega
    rw [hk, BitVec.ofNat_add, ← BitVec.sub_sub, BitVec.sub_add_cancel]
  rw [e]
  exact mem_spread (by omega)

theorem exec_movemToMem_up (long : Bool) {e : Ea} (h : e.isPredec = false) : exec (.movemToMem long e) s =
    finish (fetch16 >>= fun m => resolveAddress e (movemSize long) >>= fun a =>
      storeUp (movemSize long) (maskBits m) a) s := by
  cases e with
  | predec r => cases h
  | _ => rfl

theorem stores_movemToMem_up {long : Bool} {e : Ea} (h : e.isPredec = false) {a : Word} {t : State}
    (hr : resolve e (movemSize long) (after1 s) = .ok (.mem a) t) : stores (.movemToMem long e) s =
      (spread a (byteCount (movemSize long)) (named (word1 s))).map fun a => (a, byteCount (movemSize long)) := by
  cases e with
  | predec r => cases h
  | _ => simp only [stores, hr]

theorem resolve_control {e : Ea} {sz : Size} {s t : State} {l : Loc} (he : e.isControl = true)
    (h : resolve e sz s = .ok l t) : ∃ a, l = .mem a := by
  have hl := resolve_isOf h
  cases e with
  | dn n => cases he
  | an n => cases he
  | imm => cases he
  | _ => exact hl

theorem movemToMem_bounded (long : Bool) (dst : Ea) : Bounded (.movemToMem long dst) s := by
  cases hp : dst.isPredec with
  | true =>
    cases dst with
    | predec r =>
      refine ⟨_, rfl, .step rfl .fetch (.step rfl .refl (.step rfl .refl ?_))⟩
      refine (storeDown_follows _ _ (fun j hj _ => ?_) _).completes_bind fun a t _ => ?_
      · have hn : j < named (word1 s) := by
          rw [named_eq_length]
          exact (List.length_map _).symm ▸ hj
        have e : (fetchWord s).2.areg r = s.areg r := after1_areg s r
        dsimp only
        rw [e]
        exact mem_spread_down hn
      · exact change_completes (.address _ (List.mem_append_left _ (List.mem_append_right _ (.head _))))
    | _ => cases hp
  | false =>
    refine ⟨_, exec_movemToMem_up long hp, .step rfl .fetch ?_⟩
    refine (resolve_follows _ (steps_consulted (i := .movemToMem long dst) (.head _) s)).bind
      (fun l t _ => .of_ok rfl .refl) |>.completes_bind fun a t h => (storeUp_follows _ _ (fun j hj hwf => ?_) _).completes
    have hc : dst.isControl = true := by
      have : dst.isMovemStore = true := hwf
      simp only [Ea.isMovemStore, Ea.isControlAlterable, hp, Bool.or_false, Bool.and_eq_true] at this
      exact this.1
    obtain ⟨l, u, hr, hu⟩ := run_bind_inv h
    cases hu
    obtain ⟨b, rfl⟩ := resolve_control hc hr
    rw [stores_movemToMem_up hp hr, named_eq_length]
    exact mem_spread hj

theorem exec_movemToRegs_plain (long : Bool) {e : Ea} (h : e.isPostinc = false) : exec (.movemToRegs long e) s =
    finish (fetch16 >>= fun m => resolveAddress e (movemSize long) >>= fun a =>
      loadUp (movemSize long) (maskBits m) a >>= fun _ => pure ()) s := by
  cases e with
  | postinc r => cases h
  | _ => rfl

/-- The registers of a list are those that the footprint names. -/
theorem loadUp_list_follows {long : Bool} {e : Ea} (a : Word) (t : State) :
    Follows (footprint (.movemToRegs long e) s) (loadUp (movemSize long) (maskBits (word1 s)) a) t := by
  refine loadUp_follows _ _ (fun i hi h8 => ?_) (fun i hi h8 => ?_) t
  all_goals have hbit : (word1 s).getLsbD i.val = true := (List.mem_filter.mp hi).2
  · refine List.mem_append_right _ (List.mem_filter.mpr ⟨List.mem_finRange _, ?_⟩)
    simpa [Nat.mod_eq_of_lt h8] using hbit
  · refine List.mem_append_right _ (List.mem_filter.mpr ⟨List.mem_finRange _, ?_⟩)
    have e : 8 + (i.val - 8) % 8 = i.val := by omega
    simpa [e] using hbit

theorem movemToRegs_bounded (long : Bool) (src : Ea) : Bounded (.movemToRegs long src) s := by
  cases hp : src.isPostinc with
  | true =>
    cases src with
    | postinc r =>
      refine ⟨_, rfl, .step rfl .fetch (.step rfl .refl ((loadUp_list_follows _ _).completes_bind fun a t _ => ?_))⟩
      exact change_completes (.address _ (List.mem_append_left _ (List.mem_append_right _ (.head _))))
    | _ => cases hp
  | false =>
    refine ⟨_, exec_movemToRegs_plain long hp, .step rfl .fetch ?_⟩
    refine (resolveAddress_follows _ (steps_consulted (i := .movemToRegs long src) (.head _) s)).completes_bind fun a t _ => ?_
    exact (loadUp_list_follows a t).completes_bind fun _ _ _ => (Follows.of_ok rfl .refl).completes

theorem length_movepBytes (long : Bool) (v : Word) : (movepBytes long v).length = if long then 4 else 2 := by
  cases long <;> rfl

theorem movep_bounded (x : Reg) (toMem long : Bool) (y : Reg) : Bounded (.movep x toMem long y) s := by
  refine ⟨_, rfl, .step rfl .refl (.step rfl .fetch ?_)⟩
  cases toMem with
  | true =>
    refine .step rfl .refl (movepStore_follows _ _ (fun j hj _ => ?_) _).completes
    rw [length_movepBytes] at hj
    exact List.mem_map_of_mem (List.mem_map_of_mem (List.mem_range.mpr hj))
  | false =>
    exact (movepLoad_follows _ _ _ _).completes_bind fun _ _ _ => change_completes (.data _ (.head _))
end
end
end Sys2Proof.Machine

namespace Sys2Proof.Machine

section
open Claims

section
variable {s : State}

/-! ## Arithmetic -/

theorem clr_bounded (sz : Size) (dst : Ea) : Bounded (.clr sz dst) s :=
  ⟨_, rfl, (writable rfl rfl).bind fun _ _ hl => write_flags_completes hl (.of .nzvc rfl)⟩

theorem cmp_bounded (n : Reg) (sz : Size) (src : Ea) : Bounded (.cmp n sz src) s :=
  ⟨_, rfl, (readEa_follows sz (steps_consulted (i := .cmp n sz src) (.head _) s)).completes_bind fun _ _ _ =>
    .step rfl .refl (setFlags_follows (.of .nzvc rfl)).completes⟩

theorem cmpi_bounded (sz : Size) (dst : Ea) : Bounded (.cmpi sz dst) s :=
  ⟨_, rfl, (fetchImm_follows sz).completes_bind fun _ _ _ =>
    (readEa_follows sz (steps_consulted (i := .cmpi sz dst) (.head _) s)).completes_bind fun _ _ _ =>
      (setFlags_follows (.of .nzvc rfl)).completes⟩

theorem cmpm_bounded (x : Reg) (sz : Size) (y : Reg) : Bounded (.cmpm x sz y) s :=
  ⟨_, rfl, (readEa_follows sz (steps_consulted (i := .cmpm x sz y) (.tail _ (.head _)) s)).completes_bind fun _ _ _ =>
    (readEa_follows sz (steps_consulted (i := .cmpm x sz y) (.head _) s)).completes_bind fun _ _ _ =>
      (setFlags_follows (.of .nzvc rfl)).completes⟩

theorem extW_bounded (n : Reg) : Bounded (.extW n) s :=
  ⟨look (fun s => trunc .w (sext8 (s.dreg n))) >>= fun v => change (fun s => s.writeD n .w v) >>= fun _ =>
      setFlags fun f => f.logic .w v, rfl,
    .step rfl .refl (setD_flags_completes (.head _) (fun _ => rfl) (.of .nzvc rfl))⟩

theorem extL_bounded (n : Reg) : Bounded (.extL n) s :=
  ⟨look (fun s => sext16 (s.dreg n)) >>= fun v => change (fun s => s.setD n v) >>= fun _ =>
      setFlags fun f => f.logic .l v, rfl,
    .step rfl .refl (setD_flags_completes (.head _) (fun _ => rfl) (.of .nzvc rfl))⟩

theorem swap_bounded (n : Reg) : Bounded (.swap n) s :=
  ⟨look (fun s => (s.dreg n).extractLsb' 0 16 ++ (s.dreg n).extractLsb' 16 16) >>= fun v =>
      change (fun s => s.setD n v) >>= fun _ => setFlags fun f => f.logic .l v, rfl,
    .step rfl .refl (setD_flags_completes (.head _) (fun _ => rfl) (.of .nzvc rfl))⟩

theorem mulu_bounded (n : Reg) (src : Ea) : Bounded (.mulu n src) s :=
  ⟨_, rfl, (readEa_follows .w (steps_consulted (i := .mulu n src) (.head _) s)).completes_bind fun _ _ _ =>
    .step rfl .refl (setD_flags_completes (.head _) (fun _ => rfl) (.of .nzvc rfl))⟩

theorem muls_bounded (n : Reg) (src : Ea) : Bounded (.muls n src) s :=
  ⟨_, rfl, (readEa_follows .w (steps_consulted (i := .muls n src) (.head _) s)).completes_bind fun _ _ _ =>
    .step rfl .refl (setD_flags_completes (.head _) (fun _ => rfl) (.of .nzvc rfl))⟩

theorem divu_bounded (n : Reg) (src : Ea) : Bounded (.divu n src) s :=
  ⟨_, rfl, (readEa_follows .w (steps_consulted (i := .divu n src) (.head _) s)).completes_bind fun _ _ _ =>
    .step rfl .refl (divide_completes (.head _) rfl)⟩

theorem divs_bounded (n : Reg) (src : Ea) : Bounded (.divs n src) s :=
  ⟨_, rfl, (readEa_follows .w (steps_consulted (i := .divs n src) (.head _) s)).completes_bind fun _ _ _ =>
    .step rfl .refl (divide_completes (.head _) rfl)⟩

/-- The two operands of a pair, for an instruction that the mode completes. -/
theorem pair_allowed {i : PairMode → Instr} {sz : Size} {x y : Reg} (hr : written (i .regs) = some (sz, .dn x))
    (hp : written (i .predec) = some (sz, .predec x)) (hc : .predec y ∈ consulted (i .predec))
    (hb : beforeWritten (i .predec) = (readEa (.predec y) sz >>= fun _ => pure ())) (hb' : beforeWritten (i .regs) = pure ())
    (m : PairMode) : PairAllowed (footprint (i m) s) sz x y s m := by
  cases m with
  | regs => exact (writable hr (by rw [hb']; rfl)).permits (.dreg x) s rfl
  | predec =>
    exact ⟨steps_consulted hc s y (.head _), fun v s0 h => writable hp (by rw [hb, run_bind_ok h]; rfl)⟩

theorem abcd_bounded (x : Reg) (m : PairMode) (y : Reg) : Bounded (.abcd x m y) s :=
  ⟨_, rfl, (pair_allowed (i := fun m => .abcd x m y) rfl rfl (.head _) rfl rfl m).bind fun _ _ hl =>
    .step rfl .refl (bcdFinish_completes hl rfl)⟩

theorem sbcd_bounded (x : Reg) (m : PairMode) (y : Reg) : Bounded (.sbcd x m y) s :=
  ⟨_, rfl, (pair_allowed (i := fun m => .sbcd x m y) rfl rfl (.head _) rfl rfl m).bind fun _ _ hl =>
    .step rfl .refl (bcdFinish_completes hl rfl)⟩

theorem nbcd_bounded (dst : Ea) : Bounded (.nbcd dst) s :=
  ⟨_, rfl, (writable rfl rfl).bind fun l _ hl => .step rfl (.readLoc l _) (.step rfl .refl (bcdFinish_completes hl rfl))⟩

theorem addx_bounded (x : Reg) (sz : Size) (m : PairMode) (y : Reg) : Bounded (.addx x sz m y) s :=
  ⟨_, rfl, extendedOp_completes (pair_allowed (i := fun m => .addx x sz m y) rfl rfl (.head _) rfl rfl m)
    fun _ _ => .of .flags rfl⟩

theorem subx_bounded (x : Reg) (sz : Size) (m : PairMode) (y : Reg) : Bounded (.subx x sz m y) s :=
  ⟨_, rfl, extendedOp_completes (pair_allowed (i := fun m => .subx x sz m y) rfl rfl (.head _) rfl rfl m)
    fun _ _ => .of .flags rfl⟩

/-! ## Logic and shifts -/

theorem notOp_bounded (sz : Size) (dst : Ea) : Bounded (.notOp sz dst) s :=
  ⟨_, rfl, (writable rfl rfl).bind fun l _ hl => .step rfl (.readLoc l _)
    (write_flags_completes hl (.of .nzvc rfl))⟩

/-- A rotate without extend leaves `X`. -/
theorem shiftLoop_x {k : ShiftKind} (h : k = .rol ∨ k = .ror) (sz : Size) (n : Nat) (a : ShiftAcc) :
    (shiftLoop k sz n a).x = a.x := by
  induction n generalizing a with
  | zero => rfl
  | succ n ih => rcases h with rfl | rfl <;> exact ih _

theorem shifted_sets {w : Footprint} (k : ShiftKind) (sz : Size) (h : w.status = .flags) (count : Nat) (v : Word) :
    w.Sets fun f => f.shifted sz (shiftRun k sz count v f.x) := .of .flags h

theorem rotated_sets {w : Footprint} {k : ShiftKind} (hk : k = .rol ∨ k = .ror) (sz : Size) (h : w.status = .nzvc)
    (count : Nat) (v : Word) : w.Sets fun f => f.shifted sz (shiftRun k sz count v f.x) := by
  refine .of .nzvc h (hg := fun f => ?_)
  have hx : (shiftRun k sz count v f.x).x = f.x := shiftLoop_x hk sz count _
  simp only [sameBut, Status.shifted, hx]

/-! ## Program control -/

theorem bcc_bounded (c : Cond) (d : Byte) : Bounded (.bcc c d) s := by
  refine ⟨_, rfl, .step rfl .refl ((branchDisp_follows d).completes_bind fun _ _ _ => .step rfl .refl ?_)⟩
  split
  · exact change_completes (.jump _)
  · exact change_completes .refl

theorem bra_bounded (d : Byte) : Bounded (.bra d) s :=
  ⟨_, rfl, .step rfl .refl ((branchDisp_follows d).completes_bind fun _ _ _ => change_completes (.jump _))⟩

theorem bsr_bounded (d : Byte) : Bounded (.bsr d) s := by
  refine ⟨_, rfl, .step rfl .refl ((branchDisp_follows d).completes_bind fun _ t h => .step rfl .refl ?_)⟩
  refine (push_follows _ (.head _) fun _ => ?_).completes_bind fun _ _ _ => change_completes (.jump _)
  rw [show t.sp = s.sp from (branchDisp_follows d).areg h 7]
  exact .head _

theorem dbcc_bounded (c : Cond) (n : Reg) : Bounded (.dbcc c n) s := by
  refine ⟨_, rfl, .step rfl .refl (.step rfl .fetch (.step rfl .refl ?_))⟩
  split
  · exact (Follows.of_ok rfl .refl).completes
  · refine .step rfl .refl (.step rfl (.data _ (.head _)) ?_)
    split
    · exact (Follows.of_ok rfl .refl).completes
    · exact change_completes (.jump _)

theorem scc_bounded (c : Cond) (dst : Ea) : Bounded (.scc c dst) s :=
  ⟨_, rfl, (writable rfl rfl).bind fun _ _ hl => .step rfl .refl (writeLoc_follows _ hl).completes⟩

theorem jmp_bounded (dst : Ea) : Bounded (.jmp dst) s :=
  ⟨_, rfl, (resolveAddress_follows .l (steps_consulted (i := .jmp dst) (.head _) s)).completes_bind fun _ _ _ =>
    change_completes (.jump _)⟩

theorem jsr_bounded (dst : Ea) : Bounded (.jsr dst) s := by
  refine ⟨_, rfl, (resolveAddress_follows .l (steps_consulted (i := .jsr dst) (.head _) s)).completes_bind fun a t h =>
    .step rfl .refl ?_⟩
  refine (push_follows _ (List.mem_append_right _ (.head _)) fun hwf => ?_).completes_bind fun _ _ _ =>
    change_completes (.jump _)
  rw [resolveAddress_sp hwf h]
  exact .head _

theorem nop_bounded : Bounded .nop s := ⟨pure (), rfl, (Follows.of_ok rfl .refl).completes⟩

theorem rts_bounded : Bounded .rts s :=
  ⟨_, rfl, (pop_follows .l (.head _)).completes_bind fun _ _ _ => change_completes (.jump _)⟩

theorem rtr_bounded : Bounded .rtr s := by
  have h7 : 7 ∈ (footprint .rtr s).address := .head _
  refine ⟨pop .w >>= fun w => setFlags (fun f => f.withCcr (w.setWidth 16)) >>= fun _ => pop .l >>= fun pc =>
    change fun s => s.setPc pc, rfl, (pop_follows .w h7).completes_bind fun _ _ _ => ?_⟩
  refine (setFlags_follows (.of .flags rfl)).completes_bind fun _ _ _ => ?_
  exact (pop_follows .l h7).completes_bind fun _ _ _ => change_completes (.jump _)

theorem tst_bounded (sz : Size) (dst : Ea) : Bounded (.tst sz dst) s :=
  ⟨_, rfl, (readEa_follows sz (steps_consulted (i := .tst sz dst) (.head _) s)).completes_bind fun _ _ _ =>
    (setFlags_follows (.of .nzvc rfl)).completes⟩

theorem tas_bounded (dst : Ea) : Bounded (.tas dst) s :=
  ⟨_, rfl, (writable rfl rfl).bind fun l _ hl => .step rfl (.readLoc l _)
    ((setFlags_follows (.of .nzvc rfl)).completes_bind fun _ _ _ => (writeLoc_follows _ hl).completes)⟩

/-! ## System control -/

theorem moveToCcr_bounded (src : Ea) : Bounded (.moveToCcr src) s :=
  ⟨_, rfl, (readEa_follows .w (steps_consulted (i := .moveToCcr src) (.head _) s)).completes_bind fun _ _ _ =>
    (setFlags_follows (.of .flags rfl)).completes⟩

theorem moveFromSr_bounded (dst : Ea) : Bounded (.moveFromSr dst) s :=
  ⟨_, rfl, (writable rfl rfl).bind fun _ _ hl => .step rfl .refl (writeLoc_follows _ hl).completes⟩

theorem moveToSr_bounded (src : Ea) : Bounded (.moveToSr src) s :=
  ⟨_, rfl, privileged_completes ((readEa_follows .w (steps_consulted (i := .moveToSr src) (.head _) s)).completes_bind
    fun _ _ _ => setStatus_completes _ rfl)⟩

theorem moveAnUsp_bounded (n : Reg) : Bounded (.moveAnUsp n) s :=
  ⟨_, rfl, privileged_completes (.ending rfl (.userStack s _ ⟨n, rfl⟩))⟩

theorem moveUspAn_bounded (n : Reg) : Bounded (.moveUspAn n) s :=
  ⟨_, rfl, privileged_completes (change_completes (.address _ (.head _)))⟩

theorem trapv_bounded : Bounded .trapv s := by
  refine ⟨_, rfl, .step rfl .refl ?_⟩
  split
  · exact raiseNext_completes 7
  · exact (Follows.of_ok rfl .refl).completes

theorem chk_bounded (n : Reg) (src : Ea) : Bounded (.chk n src) s := by
  refine ⟨_, rfl, (readEa_follows .w (steps_consulted (i := .chk n src) (.head _) s)).completes_bind fun _ _ _ =>
    .step rfl .refl (drawBit_bind fun z _ => drawBit_bind fun v _ => drawBit_bind fun c _ => ?_)⟩
  refine (setFlags_follows (.of .nzvc rfl)).completes_bind fun _ _ _ => ?_
  split
  · exact (setFlags_follows (.of .nzvc rfl)).completes_bind fun _ _ _ => raiseNext_completes 6
  · split
    · exact (setFlags_follows (.of .nzvc rfl)).completes_bind fun _ _ _ => raiseNext_completes 6
    · exact drawBit_bind fun _ _ => (setFlags_follows (.of .nzvc rfl)).completes

theorem rte_bounded : Bounded .rte s := by
  refine ⟨_, rfl, privileged_completes ?_⟩
  refine .step rfl .refl (.step rfl (.read _ _) (.step rfl (.read _ _) (.step rfl (.read _ _) ?_)))
  split
  · exact .step rfl (.stack _ (.head _)) (.ending rfl (.system _ _ _ _ rfl))
  · exact Ends.of_fault rfl .refl

theorem stop_bounded : Bounded .stop s :=
  ⟨_, rfl, privileged_completes (.step rfl .fetch (.ending rfl (.system _ _ _ _ rfl)))⟩

theorem reset_bounded : Bounded .reset s := ⟨_, rfl, privileged_completes (Ends.of_fault rfl .refl)⟩
end
end
end Sys2Proof.Machine

namespace Sys2Proof.Machine

section
open Claims

/-- Every instruction completes within its footprint. -/
theorem exec_bounded (i : Instr) (s : State) : Bounded i s := by
  cases i with
  | oriToCcr => exact ⟨_, rfl, logicCcr_completes fun _ => .of .flags rfl⟩
  | oriToSr => exact ⟨_, rfl, logicSr_completes rfl⟩
  | ori sz dst => exact ⟨_, rfl, logicImm_completes (fun _ _ h => writable rfl (run_bind_ok h)) fun _ => .of .nzvc rfl⟩
  | andiToCcr => exact ⟨_, rfl, logicCcr_completes fun _ => .of .flags rfl⟩
  | andiToSr => exact ⟨_, rfl, logicSr_completes rfl⟩
  | andi sz dst => exact ⟨_, rfl, logicImm_completes (fun _ _ h => writable rfl (run_bind_ok h)) fun _ => .of .nzvc rfl⟩
  | eoriToCcr => exact ⟨_, rfl, logicCcr_completes fun _ => .of .flags rfl⟩
  | eoriToSr => exact ⟨_, rfl, logicSr_completes rfl⟩
  | eori sz dst => exact ⟨_, rfl, logicImm_completes (fun _ _ h => writable rfl (run_bind_ok h)) fun _ => .of .nzvc rfl⟩
  | subi sz dst => exact ⟨_, rfl, immToEa_completes (fun _ _ h => writable rfl (run_bind_ok h)) fun _ _ => .of .flags rfl⟩
  | addi sz dst => exact ⟨_, rfl, immToEa_completes (fun _ _ h => writable rfl (run_bind_ok h)) fun _ _ => .of .flags rfl⟩
  | cmpi sz dst => exact cmpi_bounded sz dst
  | btstImm dst => exact ⟨_, rfl, .step rfl .fetch (bitTest_completes (steps_consulted (.head _) s) fun _ => .of .zero rfl)⟩
  | bchgImm dst => exact ⟨_, rfl, .step rfl .fetch (bitChange_completes (writable rfl rfl) fun _ => .of .zero rfl)⟩
  | bclrImm dst => exact ⟨_, rfl, .step rfl .fetch (bitChange_completes (writable rfl rfl) fun _ => .of .zero rfl)⟩
  | bsetImm dst => exact ⟨_, rfl, .step rfl .fetch (bitChange_completes (writable rfl rfl) fun _ => .of .zero rfl)⟩
  | btstReg n dst => exact ⟨_, rfl, .step rfl .refl (bitTest_completes (steps_consulted (.head _) s) fun _ => .of .zero rfl)⟩
  | bchgReg n dst => exact ⟨_, rfl, .step rfl .refl (bitChange_completes (writable rfl rfl) fun _ => .of .zero rfl)⟩
  | bclrReg n dst => exact ⟨_, rfl, .step rfl .refl (bitChange_completes (writable rfl rfl) fun _ => .of .zero rfl)⟩
  | bsetReg n dst => exact ⟨_, rfl, .step rfl .refl (bitChange_completes (writable rfl rfl) fun _ => .of .zero rfl)⟩
  | movep x toMem long y => exact movep_bounded x toMem long y
  | moveB dst src =>
    exact ⟨_, rfl, moveOp_completes (steps_consulted (.head _) s) (fun _ _ h => writable rfl (run_bind_ok h))
      fun _ => .of .nzvc rfl⟩
  | moveW dst src =>
    exact ⟨_, rfl, moveOp_completes (steps_consulted (.head _) s) (fun _ _ h => writable rfl (run_bind_ok h))
      fun _ => .of .nzvc rfl⟩
  | moveaW n src => exact ⟨_, rfl, moveaOp_completes (steps_consulted (.head _) s) (List.mem_append_right _ (.head _))⟩
  | moveL dst src =>
    exact ⟨_, rfl, moveOp_completes (steps_consulted (.head _) s) (fun _ _ h => writable rfl (run_bind_ok h))
      fun _ => .of .nzvc rfl⟩
  | moveaL n src => exact ⟨_, rfl, moveaOp_completes (steps_consulted (.head _) s) (List.mem_append_right _ (.head _))⟩
  | negx sz dst => exact ⟨_, rfl, unaryEa_completes (writable rfl rfl) fun _ => .of .flags rfl⟩
  | moveFromSr dst => exact moveFromSr_bounded dst
  | chk n src => exact chk_bounded n src
  | lea n src => exact lea_bounded n src
  | clr sz dst => exact clr_bounded sz dst
  | neg sz dst => exact ⟨_, rfl, unaryEa_completes (writable rfl rfl) fun _ => .of .flags rfl⟩
  | moveToCcr src => exact moveToCcr_bounded src
  | notOp sz dst => exact notOp_bounded sz dst
  | moveToSr src => exact moveToSr_bounded src
  | nbcd dst => exact nbcd_bounded dst
  | swap n => exact swap_bounded n
  | pea src => exact pea_bounded src
  | extW n => exact extW_bounded n
  | extL n => exact extL_bounded n
  | movemToMem long dst => exact movemToMem_bounded long dst
  | tst sz dst => exact tst_bounded sz dst
  | tas dst => exact tas_bounded dst
  | movemToRegs long src => exact movemToRegs_bounded long src
  | trap v => exact ⟨_, rfl, raiseNext_completes _⟩
  | link n => exact link_bounded n
  | unlk n => exact unlk_bounded n
  | moveAnUsp n => exact moveAnUsp_bounded n
  | moveUspAn n => exact moveUspAn_bounded n
  | reset => exact reset_bounded
  | nop => exact nop_bounded
  | stop => exact stop_bounded
  | rte => exact rte_bounded
  | rts => exact rts_bounded
  | trapv => exact trapv_bounded
  | rtr => exact rtr_bounded
  | jsr dst => exact jsr_bounded dst
  | jmp dst => exact jmp_bounded dst
  | addq q sz dst => exact ⟨_, rfl, quickOp_completes (writable rfl rfl) fun h _ _ => .of .flags (if_neg (by simp [h]))⟩
  | subq q sz dst => exact ⟨_, rfl, quickOp_completes (writable rfl rfl) fun h _ _ => .of .flags (if_neg (by simp [h]))⟩
  | dbcc c n => exact dbcc_bounded c n
  | scc c dst => exact scc_bounded c dst
  | bra d => exact bra_bounded d
  | bsr d => exact bsr_bounded d
  | bcc c d => exact bcc_bounded c d
  | moveq n d => exact moveq_bounded n d
  | divu n src => exact divu_bounded n src
  | divs n src => exact divs_bounded n src
  | sbcd x m y => exact sbcd_bounded x m y
  | orEaDn n sz src =>
    exact ⟨_, rfl, logicEaDn_completes (steps_consulted (.head _) s) (.head _) fun _ => .of .nzvc rfl⟩
  | orDnEa n sz dst => exact ⟨_, rfl, logicDnEa_completes (writable rfl rfl) fun _ => .of .nzvc rfl⟩
  | mulu n src => exact mulu_bounded n src
  | muls n src => exact muls_bounded n src
  | abcd x m y => exact abcd_bounded x m y
  | exgDD x y => exact exgDD_bounded x y
  | exgAA x y => exact exgAA_bounded x y
  | exgDA x y => exact exgDA_bounded x y
  | andEaDn n sz src =>
    exact ⟨_, rfl, logicEaDn_completes (steps_consulted (.head _) s) (.head _) fun _ => .of .nzvc rfl⟩
  | andDnEa n sz dst => exact ⟨_, rfl, logicDnEa_completes (writable rfl rfl) fun _ => .of .nzvc rfl⟩
  | subEaDn n sz src =>
    exact ⟨_, rfl, eaToDn_completes (steps_consulted (.head _) s) (.head _) fun _ _ => .of .flags rfl⟩
  | subDnEa n sz dst => exact ⟨_, rfl, dnToEa_completes (writable rfl rfl) fun _ _ => .of .flags rfl⟩
  | subaW n src => exact ⟨_, rfl, addressOp_completes (steps_consulted (.head _) s) (List.mem_append_right _ (.head _))⟩
  | subaL n src => exact ⟨_, rfl, addressOp_completes (steps_consulted (.head _) s) (List.mem_append_right _ (.head _))⟩
  | subx x sz m y => exact subx_bounded x sz m y
  | addEaDn n sz src =>
    exact ⟨_, rfl, eaToDn_completes (steps_consulted (.head _) s) (.head _) fun _ _ => .of .flags rfl⟩
  | addDnEa n sz dst => exact ⟨_, rfl, dnToEa_completes (writable rfl rfl) fun _ _ => .of .flags rfl⟩
  | addaW n src => exact ⟨_, rfl, addressOp_completes (steps_consulted (.head _) s) (List.mem_append_right _ (.head _))⟩
  | addaL n src => exact ⟨_, rfl, addressOp_completes (steps_consulted (.head _) s) (List.mem_append_right _ (.head _))⟩
  | addx x sz m y => exact addx_bounded x sz m y
  | cmp n sz src => exact cmp_bounded n sz src
  | cmpaW n src => exact ⟨_, rfl, compareAddress_completes (steps_consulted (.head _) s) fun _ _ => .of .nzvc rfl⟩
  | cmpaL n src => exact ⟨_, rfl, compareAddress_completes (steps_consulted (.head _) s) fun _ _ => .of .nzvc rfl⟩
  | eor n sz dst => exact ⟨_, rfl, logicDnEa_completes (writable rfl rfl) fun _ => .of .nzvc rfl⟩
  | cmpm x sz y => exact cmpm_bounded x sz y
  | asrReg c sz n => exact ⟨_, rfl, shiftReg_completes (.head _) (shifted_sets _ _ rfl)⟩
  | asrMem dst => exact ⟨_, rfl, shiftMem_completes (writable rfl rfl) (shifted_sets _ _ rfl)⟩
  | aslReg c sz n => exact ⟨_, rfl, shiftReg_completes (.head _) (shifted_sets _ _ rfl)⟩
  | aslMem dst => exact ⟨_, rfl, shiftMem_completes (writable rfl rfl) (shifted_sets _ _ rfl)⟩
  | lsrReg c sz n => exact ⟨_, rfl, shiftReg_completes (.head _) (shifted_sets _ _ rfl)⟩
  | lsrMem dst => exact ⟨_, rfl, shiftMem_completes (writable rfl rfl) (shifted_sets _ _ rfl)⟩
  | lslReg c sz n => exact ⟨_, rfl, shiftReg_completes (.head _) (shifted_sets _ _ rfl)⟩
  | lslMem dst => exact ⟨_, rfl, shiftMem_completes (writable rfl rfl) (shifted_sets _ _ rfl)⟩
  | roxrReg c sz n => exact ⟨_, rfl, shiftReg_completes (.head _) (shifted_sets _ _ rfl)⟩
  | roxrMem dst => exact ⟨_, rfl, shiftMem_completes (writable rfl rfl) (shifted_sets _ _ rfl)⟩
  | roxlReg c sz n => exact ⟨_, rfl, shiftReg_completes (.head _) (shifted_sets _ _ rfl)⟩
  | roxlMem dst => exact ⟨_, rfl, shiftMem_completes (writable rfl rfl) (shifted_sets _ _ rfl)⟩
  | rorReg c sz n => exact ⟨_, rfl, shiftReg_completes (.head _) (rotated_sets (.inr rfl) _ rfl)⟩
  | rorMem dst => exact ⟨_, rfl, shiftMem_completes (writable rfl rfl) (rotated_sets (.inr rfl) _ rfl)⟩
  | rolReg c sz n => exact ⟨_, rfl, shiftReg_completes (.head _) (rotated_sets (.inl rfl) _ rfl)⟩
  | rolMem dst => exact ⟨_, rfl, shiftMem_completes (writable rfl rfl) (rotated_sets (.inl rfl) _ rfl)⟩
end
end Sys2Proof.Machine

namespace Sys2Proof.Machine

/-! # The frames -/

section
open Claims

/-- How an instruction that answers a next state got there: moves, then an ending or a latched host-level fault. -/
theorem exec_next {i : Instr} {s t : State} (h : exec i s = .next t) :
    ∃ u, Path (footprint i s) s u ∧ (Ending (footprint i s) u t ∨ ∃ r, t = latchFault s u r) := by
  obtain ⟨m, hm, hc⟩ := exec_bounded i s
  rw [hm] at h
  rcases finish_next h with hr | ⟨r, u, hr, rfl⟩
  · obtain ⟨u, hp, he⟩ := hc.ok _ _ hr
    exact ⟨u, hp, .inl he⟩
  · exact ⟨u, hc.fault _ _ hr, .inr ⟨r, rfl⟩⟩

/-- Settles O17: `exec_bounded` gives the outcomes of an instruction, `memWrite_refused` those of a bus write. -/
theorem instructionsEnd : Obligations.InstructionsEnd := by
  unfold Obligations.InstructionsEnd
  refine ⟨fun i s => ?_, fun s a sz v r h => memWrite_refused h⟩
  obtain ⟨m, hm, hc⟩ := exec_bounded i s
  rw [hm]
  cases hr : m s with
  | ok a t => exact .inl ⟨t, finish_ok hr⟩
  | error e t =>
    cases e with
    | fault r => exact .inl ⟨_, finish_fault hr⟩
    | refused r =>
      obtain rfl := hc.refused r t hr
      exact .inr (by simp only [finish, hr])

/-! ## Registers -/

section
variable {w : Footprint} {s t : State}

theorem Ending.dreg (h : Ending w s t) (n : Reg) : t.dreg n = s.dreg n := by
  cases h with
  | same => rfl
  | system f pc b => rfl
  | userStack v => rfl
  | exception h =>
    obtain ⟨_, hd, _⟩ := exceptionEntry_ok h
    exact dreg_congr hd n

theorem Ending.areg (h : Ending w s t) {n : Reg} (h7 : n.val < 7) : t.areg n = s.areg n := by
  cases h with
  | same => rfl
  | system f pc b => exact areg_congr h7 rfl
  | userStack v => exact areg_congr h7 rfl
  | exception h =>
    obtain ⟨_, _, ha⟩ := exceptionEntry_ok h
    exact areg_congr h7 ha

/-- With no exception taken, only the ending that writes `USP` moves a stack pointer. -/
theorem Ending.stacks (h : Ending w s t) (ht : t.trap = false) :
    (¬ w.userStack → t.usp = s.usp) ∧ t.isp = s.isp ∧ t.ssp = s.ssp := by
  cases h with
  | same => exact ⟨fun _ => rfl, rfl, rfl⟩
  | system f pc b => exact ⟨fun _ => rfl, rfl, rfl⟩
  | userStack v hw => exact ⟨fun h => absurd hw h, rfl, rfl⟩
  | exception h =>
    obtain ⟨htrap, _⟩ := exceptionEntry_ok h
    rw [htrap] at ht
    cases ht
end

/-- Settles O18: no move of the path and no ending writes another data register, and a latched fault frees only the
registers that changed. -/
theorem dataRegisterFrame : Obligations.DataRegisterFrame := by
  unfold Obligations.DataRegisterFrame
  intro i s t n h hn
  obtain ⟨u, p, he | ⟨r, rfl⟩⟩ := exec_next h
  · exact (he.dreg n).trans (Path.dreg p hn)
  · exact latchFault_dreg (Path.dreg p hn)

/-- Settles O19: the same for address registers and, with no exception taken, for the stack pointers. -/
theorem addressRegisterFrame : Obligations.AddressRegisterFrame := by
  unfold Obligations.AddressRegisterFrame
  refine ⟨fun i s t n h h7 hn => ?_, fun i s t h ht => ?_⟩
  · obtain ⟨u, p, he | ⟨r, rfl⟩⟩ := exec_next h
    · exact (he.areg h7).trans (Path.areg p h7 hn)
    · exact latchFault_areg h7 (Path.areg p h7 hn)
  · obtain ⟨u, p, he | ⟨r, rfl⟩⟩ := exec_next h
    · obtain ⟨hu, hi, hp⟩ := he.stacks ht
      exact ⟨fun h hn => (hu fun ⟨n, e⟩ => hn n e).trans ((Path.stacks p).usp h),
        fun h => hi.trans ((Path.stacks p).isp h), fun h => hp.trans ((Path.stacks p).ssp h)⟩
    · exact ⟨fun h _ => latchFault_usp ((Path.stacks p).usp h), fun h => latchFault_isp ((Path.stacks p).isp h),
        fun h => latchFault_ssp ((Path.stacks p).ssp h)⟩

/-! ## Memory -/

/-- The devices' part of what a read may change (20_memory R95): the microwire mask turns while a transaction runs. -/
def Turned (d e : Dac) : Prop :=
  ∃ m n, e = { d with mwMask := m, mwCycles := n } ∧ (d.mwCycles = 0 → m = d.mwMask ∧ n = 0)

theorem Turned.refl (d : Dac) : Turned d d := ⟨d.mwMask, d.mwCycles, rfl, fun h => ⟨rfl, h⟩⟩

theorem Turned.trans {d e f : Dac} (h : Turned d e) (h' : Turned e f) : Turned d f := by
  obtain ⟨m, n, rfl, hd⟩ := h
  obtain ⟨m', n', rfl, he⟩ := h'
  refine ⟨m', n', rfl, fun h0 => ?_⟩
  obtain ⟨rfl, rfl⟩ := hd h0
  exact he rfl

theorem Dac.turned_microwireCycle (d : Dac) : Turned d d.microwireCycle := by
  unfold Dac.microwireCycle
  split
  · exact ⟨_, _, rfl, fun h => by omega⟩
  · exact Turned.refl d

theorem memRead_turned (s : State) (a : Word) (sz : Size) : Turned s.dac (memRead s a sz).2.dac := by
  rcases memRead_state s a sz with h | h <;> rw [h]
  · exact Turned.refl _
  · exact s.dac.turned_microwireCycle

/-- What stores within `W` leave of RAM and the devices. -/
structure MemoryKept (W : Word × Nat → Prop) (s t : State) : Prop where
  bytes : ∀ b, (∀ p, W p → b < busAddr p.1 ∨ busAddr p.1 + p.2 ≤ b) → t.ram.read b = s.ram.read b
  ram : (∀ p, ¬ W p) → t.ram = s.ram
  devices : (∀ p, W p → ∀ d o, route p.1 = some (d, o) → d = .ram) →
    t.psg = s.psg ∧ t.mfp = s.mfp ∧ Turned s.dac t.dac

section
variable {W : Word × Nat → Prop} {s t u : State}

theorem MemoryKept.of_turned (hr : t.ram = s.ram) (hp : t.psg = s.psg) (hm : t.mfp = s.mfp) (hd : Turned s.dac t.dac) :
    MemoryKept W s t :=
  ⟨fun b _ => by rw [hr], fun _ => hr, fun _ => ⟨hp, hm, hd⟩⟩

theorem MemoryKept.of_same (hr : t.ram = s.ram) (hp : t.psg = s.psg) (hm : t.mfp = s.mfp) (hd : t.dac = s.dac) :
    MemoryKept W s t := .of_turned hr hp hm (hd ▸ Turned.refl _)

theorem MemoryKept.trans (h : MemoryKept W s t) (h' : MemoryKept W t u) : MemoryKept W s u where
  bytes b hb := (h'.bytes b hb).trans (h.bytes b hb)
  ram hW := (h'.ram hW).trans (h.ram hW)
  devices hW := by
    obtain ⟨hp, hm, hd⟩ := h.devices hW
    obtain ⟨hp', hm', hd'⟩ := h'.devices hW
    exact ⟨hp'.trans hp, hm'.trans hm, hd.trans hd'⟩

/-- A store reaches the bytes that it covers, and a device only if it is routed there. -/
theorem MemoryKept.of_write {a : Word} {sz : Size} {v : Word} (hW : W (a, byteCount sz)) (h : memWrite s a sz v = .ok t) :
    MemoryKept W s t := by
  have to_device : ∀ {d o}, route a = some (d, o) → d ≠ .ram → t.ram = s.ram → MemoryKept W s t := fun hr hd e =>
    ⟨fun b _ => by rw [e], fun hn => absurd hW (hn _), fun hn => absurd (hn _ hW _ _ hr) hd⟩
  rcases memWrite_cases h with rfl | ⟨o, ho, rfl⟩ | ⟨o, ho, rfl⟩ | ⟨o, m, ho, _, rfl⟩ | ⟨o, ho, rfl⟩
  · exact .of_same rfl rfl rfl rfl
  · obtain ⟨rfl, _⟩ := route_eq_ram ho
    refine ⟨fun b hb => ?_, fun hn => absurd hW (hn _), fun _ => ⟨rfl, rfl, Turned.refl _⟩⟩
    have hb' : b < busAddr a ∨ busAddr a + byteCount sz ≤ b := hb _ hW
    exact (Memory.read_store _ _ _ _ _).trans (if_neg (by omega))
  · exact to_device ho nofun rfl
  · exact to_device ho nofun rfl
  · exact to_device ho nofun rfl

theorem Move.memory {w : Footprint} (h : Move w s t) : MemoryKept w.store s t := by
  cases h with
  | read a sz =>
    have hd := memRead_turned s a sz
    rw [memRead_keeps]
    exact .of_turned rfl rfl rfl hd
  | jump v => exact .of_same rfl rfl rfl rfl
  | draw => exact .of_same rfl rfl rfl rfl
  | flags f => exact .of_same rfl rfl rfl rfl
  | data m v hm => exact .of_same rfl rfl rfl rfl
  | address m v hm =>
    exact .of_same (State.setA_ram _ _ _) (State.setA_psg _ _ _) (State.setA_mfp _ _ _) (State.setA_dac _ _ _)
  | store hW e => exact .of_write hW e

theorem Path.memory {w : Footprint} (h : Path w s t) : MemoryKept w.store s t := by
  induction h with
  | refl => exact .of_same rfl rfl rfl rfl
  | tail _ m ih => exact ih.trans m.memory

theorem Ending.memory {w : Footprint} (h : Ending w s t) (ht : t.trap = false) : MemoryKept W s t := by
  cases h with
  | same => exact .of_same rfl rfl rfl rfl
  | system f pc b => exact .of_same rfl rfl rfl rfl
  | userStack v => exact .of_same rfl rfl rfl rfl
  | exception h =>
    obtain ⟨htrap, _⟩ := exceptionEntry_ok h
    rw [htrap] at ht
    cases ht

theorem exec_memory {i : Instr} (h : exec i s = .next t) (ht : t.trap = false) : MemoryKept (footprint i s).store s t := by
  obtain ⟨u, p, he | ⟨r, rfl⟩⟩ := exec_next h
  · exact (Path.memory p).trans (he.memory ht)
  · exact (Path.memory p).trans (.of_same rfl rfl rfl rfl)
end

/-! ### Bytes as they read -/

theorem peek_ram {s : State} {x : Word} (h : busAddr x < Config.ramSize) : peek s x = s.ram.read (busAddr x) := by
  rw [peek, memRead_ram .b h]
  simp [Memory.access, joinBytes, Memory.readAt, h]

theorem route_eq_dac {a : Word} {o : Nat} (h : route a = some (.dac, o)) :
    busAddr a = Config.dacBase + o := by
  unfold route bindings at h
  simp only [routeIn] at h
  split at h <;> [skip; (split at h <;> [skip; (split at h <;> [skip; split at h])])]
  all_goals simp at h
  rename_i hb
  omega

/-- A byte of the SteDAC reads as before, one of the microwire mask only outside a transaction (63 R562, R575). -/
theorem Turned.readByte {d e : Dac} (h : Turned d e) {o : Nat} (ho : d.mwCycles = 0 ∨ (o ≠ 0x24 ∧ o ≠ 0x25)) :
    (e.touch o .b).access o .b = (d.touch o .b).access o .b := by
  obtain ⟨m, n, rfl, hd⟩ := h
  rcases ho with h0 | ⟨h4, h5⟩
  · obtain ⟨rfl, rfl⟩ := hd h0
    rw [← h0]
  · have hc : coversPair o .b 0x24 = false := by
      rw [coversPair, ← Bool.decide_and, decide_eq_false_iff_not]
      rintro ⟨hle, hlt⟩
      have hlt' : 0x24 < o + 1 := hlt
      omega
    simp only [Dac.touch, hc, Bool.false_eq_true, if_false, Dac.access, joinBytes, Nat.add_zero]
    congr 1
    unfold Dac.readByte
    split <;> first | rfl | contradiction

theorem MemoryKept.peek {W : Word × Nat → Prop} {s t : State} (h : MemoryKept W s t) {x : Word}
    (hx : ∀ p, W p → busAddr x < busAddr p.1 ∨ busAddr p.1 + p.2 ≤ busAddr x)
    (hd : busAddr x < Config.ramSize ∨ ∀ p, W p → ∀ d o, route p.1 = some (d, o) → d = .ram)
    (hm : s.dac.mwCycles = 0 ∨ ¬ isMaskByte x) : Machine.peek t x = Machine.peek s x := by
  by_cases hr : busAddr x < Config.ramSize
  · rw [peek_ram hr, peek_ram hr]
    exact h.bytes _ hx
  · obtain ⟨hp, hmfp, ht⟩ := h.devices (hd.resolve_left hr)
    unfold Machine.peek memRead
    cases hroute : route x with
    | none => rfl
    | some q =>
      obtain ⟨d, o⟩ := q
      cases d with
      | ram => exact absurd (route_eq_ram hroute).2 hr
      | psg => simp only [hp]
      | mfp => simp only [hmfp]
      | dac =>
        have ho : s.dac.mwCycles = 0 ∨ (o ≠ 0x24 ∧ o ≠ 0x25) := hm.imp_right fun hn => by
          have hb := route_eq_dac hroute
          unfold isMaskByte Config.dacBase at *
          omega
        simp only [ht.readByte ho]

/-- Settles O21: a path keeps the bytes that no store of its footprint covers, and the devices where none is stored to. -/
theorem memoryFrame : Obligations.MemoryFrame := by
  unfold Obligations.MemoryFrame
  intro i s t hwf h ht
  have hk := exec_memory h ht
  have hW : ∀ p, (footprint i s).store p → p ∈ stores i s := fun p hp => hp hwf
  refine ⟨fun x hx hd hm => hk.peek (fun p hp => hx p (hW p hp)) (hd.imp_right fun hd p hp => hd p (hW p hp)) hm, fun h0 => ?_⟩
  have hn : ∀ p, ¬ (footprint i s).store p := fun p hp => by simpa [h0] using hW p hp
  obtain ⟨hp, hm, m, n, hd, _⟩ := hk.devices fun p hp => absurd hp (hn p)
  exact ⟨hk.ram hn, hp, hm, by rw [hd]⟩
end
end Sys2Proof.Machine

namespace Sys2Proof.Machine

/-! # What the devices keep

The invariant of each device (the parts of `State.Inv`), kept by every register access and every clock. -/

/-! ## The YM2149 (10_state R40) -/

theorem Psg.masked_iff (p : Psg) : p.masked = true ↔ ∀ r : BitVec 4, p.reg r &&& ~~~ Psg.wmask r = 0 := by
  simp only [Psg.masked, List.all_eq_true, List.mem_range, beq_iff_eq]
  refine ⟨fun h r => ?_, fun h k _ => h _⟩
  simpa using h r.toNat r.isLt

theorem Psg.reg_congr {p q : Psg} (h : q.regs = p.regs) (r : BitVec 4) : q.reg r = p.reg r := by
  simp only [Psg.reg, h]

/-- The invariant speaks of the registers alone. -/
theorem Psg.masked_congr {p q : Psg} (h : q.regs = p.regs) : q.masked = p.masked := by
  simp only [Psg.masked, Psg.reg_congr h]

theorem Psg.regs_writeSelected (p : Psg) (v : Byte) :
    (p.writeSelected v).regs = p.regs.set p.sel.toNat (v &&& Psg.wmask p.sel) p.sel.isLt := by
  unfold Psg.writeSelected
  simp only
  split <;> rfl

theorem Psg.masked_writeSelected {p : Psg} (v : Byte) (h : p.masked = true) : (p.writeSelected v).masked = true := by
  rw [Psg.masked_iff] at h ⊢
  intro r
  simp only [Psg.reg, Psg.regs_writeSelected, Vector.getElem_set]
  split
  · rename_i e
    rw [BitVec.eq_of_toNat_eq e, BitVec.and_assoc]
    simp
  · exact h r

theorem Psg.masked_writeByte {p : Psg} (o : Nat) (v : Byte) (h : p.masked = true) : (p.writeByte o v).masked = true := by
  unfold Psg.writeByte
  split
  · exact h
  · exact Psg.masked_writeSelected v h
  · exact h

theorem Psg.masked_storeBytes {p : Psg} (o : Nat) (sz : Size) (v : Word) (k n : Nat) (h : p.masked = true) :
    (p.storeBytes o sz v k n).masked = true := by
  induction n generalizing p k with
  | zero => exact h
  | succ n ih => exact ih _ (Psg.masked_writeByte _ _ h)

theorem Psg.masked_store {p : Psg} (o : Nat) (sz : Size) (v : Word) (h : p.masked = true) :
    (p.store o sz v).masked = true := Psg.masked_storeBytes o sz v 0 _ h

@[simp] theorem Psg.toneStep_regs (p : Psg) (k : Fin 3) : (p.toneStep k).regs = p.regs := by
  unfold Psg.toneStep
  simp only
  split <;> rfl

@[simp] theorem Psg.noiseStep_regs (p : Psg) : p.noiseStep.regs = p.regs := by
  unfold Psg.noiseStep
  simp only
  split <;> rfl

@[simp] theorem Psg.envelopeStep_regs (p : Psg) : p.envelopeStep.regs = p.regs := by
  unfold Psg.envelopeStep
  split <;> [rfl; (split <;> [rfl; (split <;> rfl)])]

@[simp] theorem Psg.envelopeTick_regs (p : Psg) : p.envelopeTick.regs = p.regs := by
  unfold Psg.envelopeTick
  simp only
  split <;> [rfl; (split <;> [exact Psg.envelopeStep_regs _; rfl])]

theorem Psg.generatorStep_regs (table : List Nat) (p : Psg) : (p.generatorStep table).regs = p.regs := by
  simp [Psg.generatorStep]

/-- The generator reads the registers and writes none. -/
theorem Psg.clockCycle_regs (table : List Nat) (p : Psg) : (p.clockCycle table).1.regs = p.regs := by
  unfold Psg.clockCycle
  simp only
  split
  · exact Psg.generatorStep_regs table _
  · rfl

/-! ## The SteDAC (10_state R47, R49) -/

/-- `Dac.ok` as a proposition. -/
structure Dac.Sound (d : Dac) : Prop where
  begin_even : d.dmaBegin.getLsbD 0 = false
  end_even : d.dmaEnd.getLsbD 0 = false
  cycles : d.mwCycles ≤ 16
  volume : d.mainVolume.toNat ≤ 64

theorem Dac.ok_iff (d : Dac) : d.ok = true ↔ d.Sound := by
  simp only [Dac.ok, Bool.and_eq_true, Bool.not_eq_true', decide_eq_true_eq]
  exact ⟨fun ⟨⟨⟨hb, he⟩, hc⟩, hv⟩ => ⟨hb, he, hc, hv⟩, fun ⟨hb, he, hc, hv⟩ => ⟨⟨⟨hb, he⟩, hc⟩, hv⟩⟩

theorem withLaneHi_even {x : BitVec 24} (v : Byte) (h : x.getLsbD 0 = false) : (withLaneHi x v).getLsbD 0 = false := by
  simp only [withLaneHi, BitVec.getLsbD_append]
  simpa using h

theorem withLaneMid_even {x : BitVec 24} (v : Byte) (h : x.getLsbD 0 = false) : (withLaneMid x v).getLsbD 0 = false := by
  simp only [withLaneMid, BitVec.getLsbD_append]
  simpa using h

theorem withLaneLo_even (x : BitVec 24) (v : Byte) : (withLaneLo x v).getLsbD 0 = false := by
  rw [withLaneLo, BitVec.getLsbD_append (y := v &&& 0xFE)]
  simp

section
variable {d : Dac}

theorem Dac.sound_writeControl (v : Byte) (h : d.Sound) : (d.writeControl v).Sound := by
  unfold Dac.writeControl
  simp only
  split <;> exact { h with }

theorem Dac.sound_writeByte (o : Nat) (v : Byte) (h : d.Sound) : (d.writeByte o v).Sound := by
  unfold Dac.writeByte
  split
  case h_1 => exact Dac.sound_writeControl v h
  case h_2 => exact { h with begin_even := withLaneHi_even v h.begin_even }
  case h_3 => exact { h with begin_even := withLaneMid_even v h.begin_even }
  case h_4 => exact { h with begin_even := withLaneLo_even _ v }
  case h_8 => exact { h with end_even := withLaneHi_even v h.end_even }
  case h_9 => exact { h with end_even := withLaneMid_even v h.end_even }
  case h_10 => exact { h with end_even := withLaneLo_even _ v }
  all_goals exact { h with }

theorem Dac.sound_storeBytes (o : Nat) (sz : Size) (v : Word) (k n : Nat) (h : d.Sound) :
    (d.storeBytes o sz v k n).Sound := by
  induction n generalizing d k with
  | zero => exact h
  | succ n ih => exact ih _ (Dac.sound_writeByte _ _ h)

theorem volumeOf_le (n : Nat) : volumeOf n ≤ 64 := by
  unfold volumeOf
  split <;> omega

theorem Dac.sound_startTransaction (h : d.Sound) : d.startTransaction.Sound := by
  unfold Dac.startTransaction
  simp only
  split
  · refine { h with cycles := Nat.le_refl _, volume := ?_ }
    rw [BitVec.toNat_ofNat]
    exact le_trans (Nat.mod_le _ _) (volumeOf_le _)
  · exact { h with cycles := Nat.le_refl _ }

theorem Dac.sound_store (o : Nat) (sz : Size) (v : Word) (h : d.Sound) : (d.store o sz v).Sound := by
  unfold Dac.store
  simp only
  split
  · exact Dac.sound_startTransaction (Dac.sound_storeBytes o sz v 0 _ h)
  · exact Dac.sound_storeBytes o sz v 0 _ h

theorem Dac.sound_microwireCycle (h : d.Sound) : d.microwireCycle.Sound := by
  obtain ⟨m, n, hn, e⟩ := d.microwireCycle_eq
  rw [e]
  exact { h with cycles := Nat.le_trans hn h.cycles }

theorem Dac.sound_clockCycle (h : d.Sound) : d.clockCycle.1.Sound := by
  unfold Dac.clockCycle
  simp only
  split
  · exact h
  · split
    · exact { h with }
    · generalize d.dmaCurrent + (if d.dmaMono then 1 else 2) = next
      split <;> exact { h with }
end

/-! ## The MC68901 (10_state R43, R44, 61 R471) -/

/-- What is asked of a timer whose mode codes go up to `top`: 8 for timers A and B, 7 for C and D. -/
structure Timer.Sound (top : Nat) (t : Timer) : Prop where
  code : t.control.toNat ≤ top
  prescaler : t.prescaler.ok = true

/-- `Mfp.ok` as a proposition; `IPR & ~IER = 0` said bit by bit. -/
structure Mfp.Sound (m : Mfp) : Prop where
  enabled : ∀ j, m.ipr.getLsbD j = true → m.ier.getLsbD j = true
  vector : m.vr &&& 0x07 = 0
  timerA : m.timerA.Sound 8
  timerB : m.timerB.Sound 8
  timerC : m.timerC.Sound 7
  timerD : m.timerD.Sound 7

theorem and_not_eq_zero_iff (x y : Half) : x &&& ~~~ y = 0 ↔ ∀ j, x.getLsbD j = true → y.getLsbD j = true := by
  refine ⟨fun h j hx => ?_, fun h => ?_⟩
  · have hj : (x &&& ~~~ y).getLsbD j = false := by simp [h]
    have hlt : j < 16 := BitVec.lt_of_getLsbD hx
    simpa [hx, hlt] using hj
  · refine BitVec.eq_of_getLsbD_eq fun j hj => ?_
    cases hx : x.getLsbD j
    · simp [hx]
    · simp [hx, h j hx]

theorem Mfp.ok_iff (m : Mfp) : m.ok = true ↔ m.Sound := by
  simp only [Mfp.ok, Bool.and_eq_true, beq_iff_eq, decide_eq_true_eq, and_not_eq_zero_iff]
  constructor
  · rintro ⟨⟨⟨⟨⟨⟨⟨⟨⟨he, hv⟩, ca⟩, cb⟩, cc⟩, cd⟩, pa⟩, pb⟩, pc⟩, pd⟩
    exact ⟨he, hv, ⟨ca, pa⟩, ⟨cb, pb⟩, ⟨by omega, pc⟩, ⟨by omega, pd⟩⟩
  · rintro ⟨he, hv, ⟨ca, pa⟩, ⟨cb, pb⟩, ⟨cc, pc⟩, ⟨cd, pd⟩⟩
    exact ⟨⟨⟨⟨⟨⟨⟨⟨⟨he, hv⟩, ca⟩, cb⟩, by omega⟩, by omega⟩, pa⟩, pb⟩, pc⟩, pd⟩

/-! ### Timers -/

section
variable {t t' : Timer} {top : Nat}

theorem prescaleOf_pos (code : BitVec 4) : 0 < prescaleOf code := by
  unfold prescaleOf
  split <;> omega

theorem Timer.sound_setControl {code : BitVec 4} (hc : code.toNat ≤ top) (h : t.Sound top) :
    (t.setControl code).Sound top := by
  unfold Timer.setControl
  split
  · exact h
  · exact ⟨hc, ClockManager.ok_cold Nat.one_pos (prescaleOf_pos code)⟩

/-- A control write that is not refused stores a code up to 8. -/
theorem Timer.sound_writeControl {code : BitVec 4} (h : t.Sound 8) (e : t.writeControl code = .ok t') : t'.Sound 8 := by
  unfold Timer.writeControl at e
  split at e
  · cases e
  · cases e
    exact Timer.sound_setControl (by omega) h

theorem Timer.sound_writeData (v : Byte) (h : t.Sound top) : (t.writeData v).Sound top := by
  unfold Timer.writeData
  split <;> exact { h with }

theorem Timer.sound_countStep (h : t.Sound top) : t.countStep.1.Sound top := by
  unfold Timer.countStep
  simp only
  split <;> exact { h with }

theorem Timer.sound_clock (h : t.Sound top) : t.clock.1.Sound top := by
  have hp : t.prescaler.advance.1.ok = true := ClockManager.ok_advance h.prescaler
  unfold Timer.clock
  split
  · exact h
  · split
    · split
      · exact Timer.sound_countStep { h with }
      · exact h
    · split
      · split
        all_goals
          rename_i e
          rw [e] at hp
        · exact Timer.sound_countStep ⟨h.code, hp⟩
        · exact ⟨h.code, hp⟩
      · exact h

theorem tcField_le (v : Byte) : (tcField v).toNat ≤ 7 := by
  have := (v.extractLsb' 4 3).isLt
  rw [tcField, BitVec.toNat_setWidth]
  omega

theorem tdField_le (v : Byte) : (tdField v).toNat ≤ 7 := by
  have := (v.extractLsb' 0 3).isLt
  rw [tdField, BitVec.toNat_setWidth]
  omega
end

/-! ### The interrupt controller -/

section
variable {m m' : Mfp}

/-- Clearing pending bits keeps the rest within what is enabled. -/
theorem Mfp.Sound.clear (h : m.Sound) {x : Half} (hx : ∀ j, x.getLsbD j = true → m.ipr.getLsbD j = true) :
    ({ m with ipr := x } : Mfp).Sound := { h with enabled := fun j hj => h.enabled j (hx j hj) }

theorem getLsbD_of_and {n : Nat} {x y : BitVec n} {j : Nat} (h : (x &&& y).getLsbD j = true) :
    x.getLsbD j = true ∧ y.getLsbD j = true := by
  rwa [BitVec.getLsbD_and, Bool.and_eq_true] at h

/-- Replacing a half by part of it is a mask that leaves the other half (61 R481). -/
theorem withHi_and (v : Half) (b : Byte) : withHi v (hiByte v &&& b) = v &&& (b ++ 0xFF#8) := by
  refine BitVec.eq_of_getLsbD_eq fun j hj => ?_
  simp only [withHi, hiByte, loByte, BitVec.getLsbD_and, BitVec.getLsbD_append, BitVec.getLsbD_extractLsb']
  split
  · rename_i h
    have ones : (0xFF#8).getLsbD j = true := (BitVec.getLsbD_allOnes).trans (decide_eq_true h)
    simp [h, ones]
  · have hlt : j - 8 < 8 := by omega
    have hj : 8 + (j - 8) = j := by omega
    simp [hlt, hj]

theorem withLo_and (v : Half) (b : Byte) : withLo v (loByte v &&& b) = v &&& (0xFF#8 ++ b) := by
  refine BitVec.eq_of_getLsbD_eq fun j hj => ?_
  simp only [withLo, hiByte, loByte, BitVec.getLsbD_and, BitVec.getLsbD_append, BitVec.getLsbD_extractLsb']
  split
  · rename_i h
    simp [h]
  · have hlt : j - 8 < 8 := by omega
    have hj : 8 + (j - 8) = j := by omega
    have ones : (0xFF#8).getLsbD (j - 8) = true := (BitVec.getLsbD_allOnes).trans (decide_eq_true hlt)
    simp [hlt, hj, ones]

theorem Mfp.sound_writeIer (v : Half) (h : m.Sound) : (m.writeIer v).Sound :=
  { h with enabled := fun _ hj => (getLsbD_of_and hj).2 }

theorem Mfp.sound_irqCause (h : m.Sound) : m.irqCause.1.Sound := by
  unfold Mfp.irqCause
  split
  · exact h.clear fun _ hj => (getLsbD_of_and hj).1
  · exact h

theorem channelBit_getLsbD {ch j : Nat} (h : (channelBit ch).getLsbD j = true) : j = ch := by
  rw [channelBit, BitVec.getLsbD_ofNat, Bool.and_eq_true, Nat.testBit_two_pow] at h
  exact (of_decide_eq_true h.2).symm

/-- `SetPending` asks the enable bit first. -/
theorem Mfp.sound_setPending (ch : Nat) (h : m.Sound) : (m.setPending ch).Sound := by
  unfold Mfp.setPending
  split
  · rename_i he
    refine { h with enabled := fun j hj => ?_ }
    rw [BitVec.getLsbD_or, Bool.or_eq_true] at hj
    rcases hj with hj | hj
    · exact h.enabled j hj
    · rw [channelBit_getLsbD hj]
      exact he
  · exact h

theorem Mfp.sound_underflow (ch : Nat) (fired : Bool) (h : m.Sound) : (m.underflow ch fired).Sound := by
  unfold Mfp.underflow
  split
  · exact Mfp.sound_setPending ch h
  · exact h

theorem Mfp.sound_fireDmaEvent (h : m.Sound) : m.fireDmaEvent.Sound :=
  Mfp.sound_setPending 15 { h with timerA := ⟨h.timerA.code, h.timerA.prescaler⟩ }

/-- Each of the four timers of a clock: it stays sound, and its underflow sets an enabled channel. -/
theorem Mfp.sound_clockCycle (h : m.Sound) : m.clockCycle.1.Sound := by
  have ha : (Mfp.underflow { m with timerA := m.timerA.clock.1 } 13 m.timerA.clock.2).Sound :=
    Mfp.sound_underflow _ _ { h with timerA := Timer.sound_clock h.timerA }
  unfold Mfp.clockCycle
  simp only
  generalize Mfp.underflow { m with timerA := m.timerA.clock.1 } 13 m.timerA.clock.2 = ma at ha ⊢
  have hb : (Mfp.underflow { ma with timerB := ma.timerB.clock.1 } 8 ma.timerB.clock.2).Sound :=
    Mfp.sound_underflow _ _ { ha with timerB := Timer.sound_clock ha.timerB }
  generalize Mfp.underflow { ma with timerB := ma.timerB.clock.1 } 8 ma.timerB.clock.2 = mb at hb ⊢
  have hc : (Mfp.underflow { mb with timerC := mb.timerC.clock.1 } 5 mb.timerC.clock.2).Sound :=
    Mfp.sound_underflow _ _ { hb with timerC := Timer.sound_clock hb.timerC }
  exact Mfp.sound_underflow _ _ { hc with timerD := Timer.sound_clock hc.timerD }

/-! ### Register writes -/

theorem vr_mask (v : Byte) : v &&& 0xF8 &&& 0x07 = 0 := by
  rw [BitVec.and_assoc]
  exact BitVec.and_zero

theorem Mfp.sound_writeReg {o : Nat} {v : Byte} (h : m.Sound) (e : m.writeReg o v = .ok m') : m'.Sound := by
  unfold Mfp.writeReg at e
  split at e
  case h_13 =>
    split at e <;> cases e
    rename_i hc
    exact { h with timerA := Timer.sound_writeControl h.timerA hc }
  case h_14 =>
    split at e <;> cases e
    rename_i hc
    exact { h with timerB := Timer.sound_writeControl h.timerB hc }
  all_goals cases e
  case h_4 | h_5 => exact Mfp.sound_writeIer _ h
  case h_6 => exact h.clear fun j hj => (getLsbD_of_and (withHi_and m.ipr v ▸ hj)).1
  case h_7 => exact h.clear fun j hj => (getLsbD_of_and (withLo_and m.ipr v ▸ hj)).1
  case h_12 => exact { h with vector := vr_mask v }
  case h_15 =>
    exact { h with
      timerC := Timer.sound_setControl (tcField_le v) h.timerC
      timerD := Timer.sound_setControl (tdField_le v) h.timerD }
  case h_16 => exact { h with timerA := Timer.sound_writeData v h.timerA }
  case h_17 => exact { h with timerB := Timer.sound_writeData v h.timerB }
  case h_18 => exact { h with timerC := Timer.sound_writeData v h.timerC }
  case h_19 => exact { h with timerD := Timer.sound_writeData v h.timerD }
  all_goals exact { h with }

theorem Mfp.sound_store {o : Nat} {sz : Size} {v : Word} (h : m.Sound) (e : m.store o sz v = .ok m') : m'.Sound := by
  cases sz with
  | b =>
    simp only [Mfp.store] at e
    split at e
    · exact Mfp.sound_writeReg h e
    · cases e; exact h
  | w =>
    simp only [Mfp.store] at e
    split at e
    · exact Mfp.sound_writeReg h e
    · cases e; exact h
  | l =>
    simp only [Mfp.store] at e
    split at e
    · split at e
      · rename_i e1
        exact Mfp.sound_writeReg (Mfp.sound_writeReg h e1) e
      · cases e
    · cases e; exact h
end
end Sys2Proof.Machine

namespace Sys2Proof.Machine

/-! # What every move keeps of the special state and of the invariant -/

section
open Claims

/-! ## The status word (10_state R29, R30) -/

theorem sameBut_refl (p : StatusPart) (f : Status) : sameBut p f f := by
  cases p with
  | whole => trivial
  | _ => rfl

theorem sameBut_trans {p : StatusPart} {f g h : Status} (hfg : sameBut p f g) (hgh : sameBut p g h) : sameBut p f h := by
  cases p with
  | whole => trivial
  | nothing => exact Eq.trans hgh hfg
  | zero => exact Eq.trans hgh (by rw [show g = _ from hfg])
  | nzvc => exact Eq.trans hgh (by rw [show g = _ from hfg])
  | flags => exact Eq.trans hgh (by rw [show g = _ from hfg])

section
variable {w : Footprint} {s t : State}

theorem sameBut_of_eq {p : StatusPart} (h : t.sr = s.sr) : sameBut p s.sr t.sr := by
  rw [h]
  exact sameBut_refl p s.sr

theorem Move.status (h : Move w s t) : sameBut w.status s.sr t.sr := by
  cases h with
  | read a sz => exact sameBut_of_eq (by rw [memRead_keeps])
  | jump v => exact sameBut_refl _ _
  | draw => exact sameBut_refl _ _
  | flags f hw hf => exact hf
  | data n v hn => exact sameBut_refl _ _
  | address n v hn => exact sameBut_of_eq (State.setA_sr s n v)
  | store hw e => exact sameBut_of_eq (by rw [memWrite_frame e])

theorem Path.status (h : Path w s t) : sameBut w.status s.sr t.sr := by
  induction h with
  | refl => exact sameBut_refl _ _
  | tail _ m ih => exact sameBut_trans ih m.status

/-- Only the instructions that may write the whole status word end by writing it. -/
theorem Ending.status (h : Ending w s t) (ht : t.trap = false) : sameBut w.status s.sr t.sr := by
  cases h with
  | same => exact sameBut_refl _ _
  | system f pc b hw =>
    rw [hw]
    trivial
  | userStack v => exact sameBut_refl _ _
  | exception h =>
    obtain ⟨htrap, _⟩ := exceptionEntry_ok h
    rw [htrap] at ht
    cases ht
end

/-- Settles O20: every move changes the flags that the footprint names or none, and a latched fault changes none. -/
theorem statusFrame : Obligations.StatusFrame := by
  unfold Obligations.StatusFrame
  intro i s t h ht
  obtain ⟨u, p, he | ⟨r, rfl⟩⟩ := exec_next h
  · exact sameBut_trans (Path.status p) (he.status ht)
  · exact Path.status p

/-! ## Taking an exception, as moves -/

/-- A footprint that allows a write of every register and a store everywhere. -/
def anywhere : Footprint := ⟨List.finRange 8, List.finRange 8, fun _ => True, .nothing, True⟩

theorem push_path {sz : Size} {v : Word} {s t : State} (h : push sz v s = .ok () t) : Path anywhere s t :=
  (push_follows v (List.mem_finRange _) trivial).ok () t h

/-- The status word is exchanged, then come moves, then the jump through the vector (60 R410). -/
theorem exceptionEntry_path {vector : Byte} {ret : Word} {k : ExceptionKind} {s t : State}
    (h : exceptionEntry vector ret k s = .ok () t) :
    ∃ u pc, Path anywhere (s.setSr (s.sr.entered k)) u ∧ t = { u with pc := pc, stopped := false, trap := true } := by
  rw [run_exceptionEntry] at h
  obtain ⟨_, s1, h1, h⟩ := run_bind_inv h
  obtain ⟨_, s2, h2, h⟩ := run_bind_inv h
  obtain ⟨_, s3, h3, h⟩ := run_bind_inv h
  obtain ⟨target, s4, h4, h⟩ := run_bind_inv h
  obtain ⟨pc, s5, h5, h⟩ := run_bind_inv h
  cases h4
  cases h5
  cases h
  exact ⟨_, _, (push_path h1).trans ((push_path h2).trans ((push_path h3).trans (Path.read _ _))), rfl⟩

/-! ## The special state (10_state R32, R39, R53) -/

/-- What no instruction changes. -/
structure SpecialKept (s t : State) : Prop where
  params : t.params = s.params
  vbr : t.vbr = s.vbr
  psgClock : t.psgClock = s.psgClock
  mfpClock : t.mfpClock = s.mfpClock
  dacClock : t.dacClock = s.dacClock
  callMade : t.callMade = s.callMade
  unlisted : t.ram.unlisted = s.ram.unlisted

theorem SpecialKept.refl (s : State) : SpecialKept s s := ⟨rfl, rfl, rfl, rfl, rfl, rfl, rfl⟩

theorem SpecialKept.trans {s t u : State} (h : SpecialKept s t) (h' : SpecialKept t u) : SpecialKept s u where
  params := h'.params.trans h.params
  vbr := h'.vbr.trans h.vbr
  psgClock := h'.psgClock.trans h.psgClock
  mfpClock := h'.mfpClock.trans h.mfpClock
  dacClock := h'.dacClock.trans h.dacClock
  callMade := h'.callMade.trans h.callMade
  unlisted := h'.unlisted.trans h.unlisted

theorem memWrite_unlisted {s t : State} {a : Word} {sz : Size} {v : Word} (h : memWrite s a sz v = .ok t) :
    t.ram.unlisted = s.ram.unlisted := by
  rcases memWrite_cases h with rfl | ⟨o, _, rfl⟩ | ⟨o, _, rfl⟩ | ⟨o, m, _, _, rfl⟩ | ⟨o, _, rfl⟩
  · rfl
  · exact Memory.unlisted_storeBytes _ _ _ _ _ _
  · rfl
  · rfl
  · rfl

theorem SpecialKept.of_write {s t : State} {a : Word} {sz : Size} {v : Word} (h : memWrite s a sz v = .ok t) :
    SpecialKept s t := by
  have hu := memWrite_unlisted h
  rw [memWrite_frame h]
  exact ⟨rfl, rfl, rfl, rfl, rfl, rfl, hu⟩

section
variable {w : Footprint} {s t : State}

theorem Move.special (h : Move w s t) : SpecialKept s t := by
  cases h with
  | read a sz => rw [memRead_keeps]; exact ⟨rfl, rfl, rfl, rfl, rfl, rfl, rfl⟩
  | jump v => exact ⟨rfl, rfl, rfl, rfl, rfl, rfl, rfl⟩
  | draw => exact ⟨rfl, rfl, rfl, rfl, rfl, rfl, rfl⟩
  | flags f => exact ⟨rfl, rfl, rfl, rfl, rfl, rfl, rfl⟩
  | data n v hn => exact ⟨rfl, rfl, rfl, rfl, rfl, rfl, rfl⟩
  | address n v hn => constructor <;> simp
  | store hw e => exact .of_write e

theorem Path.special (h : Path w s t) : SpecialKept s t := by
  induction h with
  | refl => exact .refl s
  | tail _ m ih => exact ih.trans m.special

theorem exceptionEntry_special {vector : Byte} {ret : Word} {k : ExceptionKind}
    (h : exceptionEntry vector ret k s = .ok () t) : SpecialKept s t := by
  obtain ⟨u, pc, p, rfl⟩ := exceptionEntry_path h
  exact { Path.special p with }

theorem Ending.special (h : Ending w s t) : SpecialKept s t := by
  cases h with
  | same => exact .refl s
  | system f pc b => exact ⟨rfl, rfl, rfl, rfl, rfl, rfl, rfl⟩
  | userStack v => exact ⟨rfl, rfl, rfl, rfl, rfl, rfl, rfl⟩
  | exception h => exact exceptionEntry_special h

theorem exec_special {i : Instr} (h : exec i s = .next t) : SpecialKept s t := by
  obtain ⟨u, p, he | ⟨r, rfl⟩⟩ := exec_next h
  · exact (Path.special p).trans he.special
  · exact { Path.special p with }
end

/-! ## The invariant -/

/-- The part of `State.Inv` that is about RAM and the devices. -/
structure DevicesSound (s : State) : Prop where
  ram : s.ram.wf = true
  psg : s.psg.masked = true
  mfp : s.mfp.Sound
  dac : s.dac.Sound

/-- `State.Inv` with its parts named. -/
structure State.Sound (s : State) : Prop extends DevicesSound s where
  params : s.params.legal = true
  psgClock : s.psgClock.ok = true
  mfpClock : s.mfpClock.ok = true
  dacClock : s.dacClock.ok = true

theorem State.inv_iff (s : State) : s.Inv ↔ s.Sound := by
  unfold State.Inv
  rw [Mfp.ok_iff, Dac.ok_iff]
  exact ⟨fun ⟨hp, hr, hg, hm, hd, cg, cm, cd⟩ => ⟨⟨hr, hg, hm, hd⟩, hp, cg, cm, cd⟩,
    fun ⟨⟨hr, hg, hm, hd⟩, hp, cg, cm, cd⟩ => ⟨hp, hr, hg, hm, hd, cg, cm, cd⟩⟩

section
variable {w : Footprint} {s t : State}

theorem DevicesSound.congr (h : DevicesSound s) (hr : t.ram = s.ram) (hp : t.psg = s.psg) (hm : t.mfp = s.mfp)
    (hd : t.dac = s.dac) : DevicesSound t :=
  ⟨hr ▸ h.ram, hp ▸ h.psg, hm ▸ h.mfp, hd ▸ h.dac⟩

theorem memRead_sound (a : Word) (sz : Size) (h : DevicesSound s) : DevicesSound (memRead s a sz).2 := by
  rcases memRead_state s a sz with e | e <;> rw [e]
  · exact h
  · exact { h with dac := Dac.sound_microwireCycle h.dac }

/-- A bus write is one store, and every store keeps its device's part. -/
theorem memWrite_sound {a : Word} {sz : Size} {v : Word} (h : DevicesSound s) (e : memWrite s a sz v = .ok t) :
    DevicesSound t := by
  rcases memWrite_cases e with rfl | ⟨o, _, rfl⟩ | ⟨o, _, rfl⟩ | ⟨o, m, _, hm, rfl⟩ | ⟨o, _, rfl⟩
  · exact h
  · exact { h with ram := Memory.wf_store _ _ _ _ h.ram }
  · exact { h with psg := Psg.masked_store _ _ _ h.psg }
  · exact { h with mfp := Mfp.sound_store h.mfp hm }
  · exact { h with dac := Dac.sound_store _ _ _ h.dac }

theorem Move.sound (m : Move w s t) (h : DevicesSound s) : DevicesSound t := by
  cases m with
  | read a sz => exact memRead_sound a sz h
  | jump v => exact { h with }
  | draw => exact { h with }
  | flags f => exact { h with }
  | data n v hn => exact { h with }
  | address n v hn =>
    exact h.congr (State.setA_ram _ _ _) (State.setA_psg _ _ _) (State.setA_mfp _ _ _) (State.setA_dac _ _ _)
  | store hw e => exact memWrite_sound h e

theorem Path.sound (p : Path w s t) (h : DevicesSound s) : DevicesSound t := by
  induction p with
  | refl => exact h
  | tail _ m ih => exact m.sound ih

theorem exceptionEntry_sound {vector : Byte} {ret : Word} {k : ExceptionKind} (h : DevicesSound s)
    (e : exceptionEntry vector ret k s = .ok () t) : DevicesSound t := by
  obtain ⟨u, pc, p, rfl⟩ := exceptionEntry_path e
  exact { Path.sound p { h with } with }

theorem Ending.sound (e : Ending w s t) (h : DevicesSound s) : DevicesSound t := by
  cases e with
  | same => exact h
  | system f pc b => exact { h with }
  | userStack v => exact { h with }
  | exception e => exact exceptionEntry_sound h e

/-- With the devices sound and the special state kept, all of the invariant is. -/
theorem State.Sound.of_special (h : s.Sound) (hk : SpecialKept s t) (hd : DevicesSound t) : t.Sound :=
  { hd with
    params := hk.params ▸ h.params
    psgClock := hk.psgClock ▸ h.psgClock
    mfpClock := hk.mfpClock ▸ h.mfpClock
    dacClock := hk.dacClock ▸ h.dacClock }

theorem latchFault_sound {u : State} (r : Fault) (h : u.Sound) : (latchFault s u r).Sound := { h with }

theorem exec_sound {i : Instr} (h : s.Sound) (e : exec i s = .next t) : t.Sound := by
  refine h.of_special (exec_special e) ?_
  obtain ⟨u, p, he | ⟨r, rfl⟩⟩ := exec_next e
  · exact he.sound (Path.sound p h.toDevicesSound)
  · exact { Path.sound p h.toDevicesSound with }

theorem fetchWord_sound (h : s.Sound) : (fetchWord s).2.Sound :=
  have p : Path anywhere s (fetchWord s).2 := Path.fetch
  h.of_special (Path.special p) (Path.sound p h.toDevicesSound)

/-! ### The CPU -/

theorem instructionStep_sound (h : s.Sound) (e : instructionStep s = .next t) : t.Sound := by
  unfold instructionStep at e
  split at e
  · cases e
    exact latchFault_sound _ (fetchWord_sound h)
  · split at e
    · cases e
    · exact exec_sound (fetchWord_sound h) e

/-- Accepting an interrupt clears the pending bit, then takes the exception. -/
theorem run_acceptInterrupt (s : State) : acceptInterrupt s =
    exceptionEntry s.mfp.irqCause.2 s.pc (.interrupt s.params.mfpIrqLevel) { s with mfp := s.mfp.irqCause.1 } := rfl

theorem acceptInterrupt_sound (h : s.Sound) (e : finish acceptInterrupt s = .next t) : t.Sound := by
  have hq : State.Sound { s with mfp := s.mfp.irqCause.1 } := { h with mfp := Mfp.sound_irqCause h.mfp }
  rcases finish_next e with e | ⟨r, u, e, -⟩ <;> rw [run_acceptInterrupt] at e
  · exact hq.of_special (exceptionEntry_special e) (exceptionEntry_sound hq.toDevicesSound e)
  · exact (exceptionEntry_ends.fault r u e).elim

theorem cpuStep_sound (h : s.Sound) (e : cpuStep s = .next t) : t.Sound := by
  have hs : State.Sound { s with trap := false } := { h with }
  unfold cpuStep cpuStepFrom at e
  split at e
  · cases e
    exact hs
  · split at e
    · exact acceptInterrupt_sound hs e
    · split at e
      · cases e
        exact hs
      · exact instructionStep_sound hs e

/-! ### The device phases (64 R610) -/

theorem psgPhase_sound (h : s.Sound) : (psgPhase s).Sound := by
  refine { h with psgClock := ClockManager.ok_advance h.psgClock, psg := ?_ }
  show (if s.psgClock.advance.2 then (s.psg.clockCycle s.params.levelTable).1 else s.psg).masked = true
  split
  · rw [Psg.masked_congr (Psg.clockCycle_regs _ _)]
    exact h.psg
  · exact h.psg

theorem mfpPhase_sound (h : s.Sound) : (mfpPhase s).Sound := by
  refine { h with mfpClock := ClockManager.ok_advance h.mfpClock, mfp := ?_ }
  show (if s.mfpClock.advance.2 then s.mfp.clockCycle.1 else s.mfp).Sound
  split
  · exact Mfp.sound_clockCycle h.mfp
  · exact h.mfp

theorem dacTick_sound (h : s.Sound) : (dacTick s).Sound := by
  refine { h with dac := Dac.sound_clockCycle h.dac, mfp := ?_ }
  show (if s.dac.clockCycle.2.2 then s.mfp.fireDmaEvent else s.mfp).Sound
  split
  · exact Mfp.sound_fireDmaEvent h.mfp
  · exact h.mfp

theorem dacPhase_sound (h : s.Sound) : (dacPhase s).Sound := by
  have hc : State.Sound { s with dacClock := s.dacClock.advance.1 } :=
    { h with dacClock := ClockManager.ok_advance h.dacClock }
  unfold dacPhase
  simp only
  split
  · exact dacTick_sound hc
  · exact hc

theorem devicePhases_sound (h : s.Sound) : (devicePhases s).Sound :=
  dacPhase_sound (mfpPhase_sound (psgPhase_sound h))

theorem step_sound (h : s.Sound) (e : step s = .next t) : t.Sound := by
  unfold step baseCycle at e
  split at e <;> cases e
  rename_i u hu
  exact devicePhases_sound (cpuStep_sound h hu)
end

/-- Settles O57: the CPU step keeps each part by the moves of its instruction, and each device phase keeps its own. -/
theorem invariantIsKept : Obligations.InvariantIsKept := by
  unfold Obligations.InvariantIsKept
  intro s t h e
  rw [State.inv_iff] at h ⊢
  exact step_sound h e
end
end Sys2Proof.Machine

namespace Sys2Proof.Machine

/-! # Which host-level fault an instruction can latch (60 R420, R421) -/

section
open Claims

/-! ## Parts of an instruction -/

/-- A part that leaves `State.fault` alone and is abandoned, if by a host-level fault, by one of `F`. -/
structure Latches (F : Fault → Prop) {α : Type} (m : M α) : Prop where
  ok : ∀ s a t, m s = .ok a t → t.fault = s.fault
  fault : ∀ s r t, m s = .error (.fault r) t → F r

/-- `F` has the fault that resolving the operand may raise (30_encoding R141). -/
def Admits (F : Fault → Prop) (e : Ea) : Prop := (∃ n, e = .index n) ∨ e = .pcIndex → F .unsupportedExtensionWord

section
variable {F : Fault → Prop} {α β : Type}

theorem postinc_admits (n : Reg) : Admits F (.postinc n) := nofun

theorem Latches.of_ok {m : M α} (h : ∀ s, ∃ a t, m s = .ok a t ∧ t.fault = s.fault) : Latches F m where
  ok s a t e := by
    obtain ⟨b, u, hu, hf⟩ := h s
    rw [hu] at e
    cases e
    exact hf
  fault s r t e := by
    obtain ⟨b, u, hu, -⟩ := h s
    rw [hu] at e
    cases e

theorem Latches.bind {m : M α} {f : α → M β} (hm : Latches F m) (hf : ∀ a, Latches F (f a)) : Latches F (m >>= f) where
  ok s b u e := by
    obtain ⟨a, t, ht, hu⟩ := run_bind_inv e
    exact ((hf a).ok t b u hu).trans (hm.ok s a t ht)
  fault s r u e := by
    cases hr : m s with
    | ok a t =>
      rw [run_bind_ok hr] at e
      exact (hf a).fault t r u e
    | error x t =>
      rw [run_bind_error hr] at e
      cases e
      exact hm.fault s r u hr

theorem Latches.ite {c : Prop} [Decidable c] {m m' : M α} (h : Latches F m) (h' : Latches F m') :
    Latches F (if c then m else m') := by
  split
  · exact h
  · exact h'

theorem Latches.hostFault {r : Fault} (h : F r) : Latches F (hostFault r : M α) where
  ok _ _ _ e := by cases e
  fault _ _ _ e := by cases e; exact h

theorem pure_latches (a : α) : Latches F (pure a : M α) := .of_ok fun s => ⟨a, s, rfl, rfl⟩
theorem look_latches (f : State → α) : Latches F (look f) := .of_ok fun s => ⟨_, s, rfl, rfl⟩
theorem change_latches {f : State → State} (h : ∀ s, (f s).fault = s.fault := by intro; simp) : Latches F (change f) :=
  .of_ok fun s => ⟨_, _, rfl, h s⟩
theorem setFlags_latches (g : Status → Status) : Latches F (setFlags g) := change_latches
theorem drawBit_latches : Latches F drawBit := .of_ok fun _ => ⟨_, _, rfl, rfl⟩
theorem drawByte_latches : Latches F drawByte := .of_ok fun _ => ⟨_, _, rfl, rfl⟩
theorem drawWord_latches : Latches F drawWord := .of_ok fun _ => ⟨_, _, rfl, rfl⟩
end

/-! ## Memory, operands, stack -/

section
variable {F : Fault → Prop}

theorem memRead_fault (s : State) (a : Word) (sz : Size) : (memRead s a sz).2.fault = s.fault := by
  rw [memRead_keeps]

theorem readMem_latches (a : Word) (sz : Size) : Latches F (readMem a sz) :=
  .of_ok fun s => ⟨_, _, rfl, memRead_fault s a sz⟩

theorem fetch16_latches : Latches F fetch16 := .of_ok fun s => ⟨_, _, rfl, memRead_fault s s.pc .w⟩

theorem writeMem_latches (a : Word) (sz : Size) (v : Word) : Latches F (writeMem a sz v) where
  ok s _ t e := by
    unfold writeMem at e
    split at e <;> cases e
    rename_i h
    rw [memWrite_frame h]
  fault s r t e := by
    unfold writeMem at e
    split at e <;> cases e

theorem fetch32_latches : Latches F fetch32 := fetch16_latches.bind fun _ => fetch16_latches.bind fun _ => pure_latches _

theorem fetchImm_latches (sz : Size) : Latches F (fetchImm sz) := by
  cases sz with
  | b => exact fetch16_latches.bind fun _ => pure_latches _
  | w => exact fetch16_latches.bind fun _ => pure_latches _
  | l => exact fetch32_latches

theorem branchDisp_latches (d : Byte) : Latches F (branchDisp d) :=
  .ite (fetch16_latches.bind fun _ => pure_latches _) (.ite fetch32_latches (pure_latches _))

theorem indexDisp_latches (h : F .unsupportedExtensionWord) (x : IndexWord) : Latches F (indexDisp x) := by
  cases ht : x.tail with
  | brief d =>
    rw [indexDisp_brief ht]
    exact pure_latches _
  | full bs is bd b3 iis =>
    rcases indexDisp_full ht with ⟨_, _, e⟩ | ⟨_, _, e⟩ | ⟨_, e⟩ <;> rw [e]
    · exact fetch16_latches.bind fun _ => pure_latches _
    · exact fetch32_latches
    · exact .hostFault h

theorem indexAddress_latches (h : F .unsupportedExtensionWord) (base : Word) : Latches F (indexAddress base) :=
  fetch16_latches.bind fun _ => (look_latches _).bind fun _ => (indexDisp_latches h _).bind fun _ => pure_latches _

theorem resolve_latches {e : Ea} (h : Admits F e) (sz : Size) : Latches F (resolve e sz) := by
  cases e with
  | dn n => exact pure_latches _
  | an n => exact pure_latches _
  | ind n => exact (look_latches _).bind fun _ => pure_latches _
  | postinc n => exact (look_latches _).bind fun _ => .bind change_latches fun _ => pure_latches _
  | predec n => exact (look_latches _).bind fun _ => .bind change_latches fun _ => pure_latches _
  | disp n => exact fetch16_latches.bind fun _ => (look_latches _).bind fun _ => pure_latches _
  | index n =>
    exact (look_latches _).bind fun _ => (indexAddress_latches (h (.inl ⟨n, rfl⟩)) _).bind fun _ => pure_latches _
  | absW => exact fetch16_latches.bind fun _ => pure_latches _
  | absL => exact fetch32_latches.bind fun _ => pure_latches _
  | pcDisp => exact (look_latches _).bind fun _ => fetch16_latches.bind fun _ => pure_latches _
  | pcIndex =>
    exact (look_latches _).bind fun _ => (indexAddress_latches (h (.inr rfl)) _).bind fun _ => pure_latches _
  | imm => exact (fetchImm_latches sz).bind fun _ => pure_latches _

theorem readLoc_latches (l : Loc) (sz : Size) : Latches F (readLoc l sz) := by
  refine .of_ok fun s => ⟨_, _, rfl, ?_⟩
  cases l with
  | mem a => exact memRead_fault s a sz
  | _ => rfl

theorem readEa_latches {e : Ea} (h : Admits F e) (sz : Size) : Latches F (readEa e sz) :=
  (resolve_latches h sz).bind fun l => readLoc_latches l sz

theorem resolveAddress_latches {e : Ea} (h : Admits F e) (sz : Size) : Latches F (resolveAddress e sz) :=
  (resolve_latches h sz).bind fun _ => pure_latches _

theorem writeLoc_latches (l : Loc) (sz : Size) (v : Word) : Latches F (writeLoc l sz v) := by
  cases l with
  | dreg n => exact change_latches
  | areg n => exact change_latches
  | mem a => exact writeMem_latches a sz v
  | imm v => exact pure_latches _

theorem push_latches (sz : Size) (v : Word) : Latches F (push sz v) :=
  .bind change_latches fun _ => (look_latches _).bind fun _ => writeMem_latches _ _ _

theorem pop_latches (sz : Size) : Latches F (pop sz) :=
  (look_latches _).bind fun _ => (readMem_latches _ _).bind fun _ => .bind change_latches fun _ => pure_latches _

theorem exceptionEntry_latches (vector : Byte) (ret : Word) (k : ExceptionKind) :
    Latches F (exceptionEntry vector ret k) :=
  (look_latches _).bind fun _ => .bind change_latches fun _ => (push_latches _ _).bind fun _ => (push_latches _ _).bind fun _ =>
    (push_latches _ _).bind fun _ => (look_latches _).bind fun _ => (readMem_latches _ _).bind fun _ => change_latches

theorem raiseNext_latches (vector : Byte) : Latches F (raiseNext vector) :=
  (look_latches _).bind fun _ => exceptionEntry_latches _ _ _

theorem privileged_latches {body : M Unit} (h : Latches F body) : Latches F (privileged body) :=
  (look_latches _).bind fun _ => .ite h ((look_latches _).bind fun _ => exceptionEntry_latches _ _ _)

/-! ## The shapes of instructions -/

theorem write_flags_latches (l : Loc) (sz : Size) (v : Word) (g : Status → Status) :
    Latches F (writeLoc l sz v >>= fun _ => setFlags g) := (writeLoc_latches l sz v).bind fun _ => setFlags_latches g

theorem look_change_flags_latches {α : Type} {k : State → α} {f : α → State → State} {g : α → Status → Status}
    (h : ∀ a s, (f a s).fault = s.fault := by intro _ _; simp) :
    Latches F (look k >>= fun a => change (f a) >>= fun _ => setFlags (g a)) :=
  (look_latches k).bind fun a => (change_latches (h a)).bind fun _ => setFlags_latches (g a)

theorem eaToDn_latches {n : Reg} {sz : Size} {src : Ea} {op : Word → Word → Word} {g : Word → Word → Status → Status}
    (h : Admits F src) : Latches F (eaToDn n sz src op g) :=
  (readEa_latches h sz).bind fun _ => (look_latches _).bind fun _ => .bind change_latches fun _ => setFlags_latches _

theorem dnToEa_latches {n : Reg} {sz : Size} {dst : Ea} {op : Word → Word → Word} {g : Word → Word → Status → Status}
    (h : Admits F dst) : Latches F (dnToEa n sz dst op g) :=
  (resolve_latches h sz).bind fun _ => (readLoc_latches _ _).bind fun _ => (look_latches _).bind fun _ =>
    write_flags_latches _ _ _ _

theorem immToEa_latches {sz : Size} {dst : Ea} {op : Word → Word → Word} {g : Word → Word → Status → Status}
    (h : Admits F dst) : Latches F (immToEa sz dst op g) :=
  (fetchImm_latches sz).bind fun _ => (resolve_latches h sz).bind fun _ => (readLoc_latches _ _).bind fun _ =>
    write_flags_latches _ _ _ _

theorem unaryEa_latches {sz : Size} {dst : Ea} {op : Status → Word → Word} {g : Word → Status → Status}
    (h : Admits F dst) : Latches F (unaryEa sz dst op g) :=
  (resolve_latches h sz).bind fun _ => (readLoc_latches _ _).bind fun _ => (look_latches _).bind fun _ =>
    write_flags_latches _ _ _ _

theorem pairOperands_latches (sz : Size) (x : Reg) (m : PairMode) (y : Reg) : Latches F (pairOperands sz x m y) := by
  cases m with
  | regs => exact (look_latches _).bind fun _ => (readLoc_latches _ _).bind fun _ => pure_latches _
  | predec =>
    exact (readEa_latches nofun sz).bind fun _ => (resolve_latches nofun sz).bind fun _ =>
      (readLoc_latches _ _).bind fun _ => pure_latches _

theorem extendedOp_latches {x y : Reg} {sz : Size} {m : PairMode} {op : Word → Word → Bool → Word}
    {g : Word → Word → Status → Status} : Latches F (extendedOp x sz m y op g) :=
  (pairOperands_latches sz x m y).bind fun _ => (look_latches _).bind fun _ => write_flags_latches _ _ _ _

theorem addressOp_latches {sz : Size} {n : Reg} {src : Ea} {op : Word → Word → Word} (h : Admits F src) :
    Latches F (addressOp sz n src op) := (readEa_latches h sz).bind fun _ => change_latches

theorem moveaOp_latches {sz : Size} {n : Reg} {src : Ea} (h : Admits F src) : Latches F (moveaOp sz n src) :=
  (readEa_latches h sz).bind fun _ => change_latches

theorem compareAddress_latches {sz : Size} {n : Reg} {src : Ea} (h : Admits F src) :
    Latches F (compareAddress sz n src) :=
  (readEa_latches h sz).bind fun _ => (look_latches _).bind fun _ => setFlags_latches _

theorem quickOp_latches {q : Reg} {sz : Size} {dst : Ea} {op addr : Word → Word → Word}
    {g : Word → Word → Status → Status} (h : Admits F dst) : Latches F (quickOp q sz dst op addr g) := by
  cases hd : dst.isAn with
  | true =>
    cases dst with
    | an n => exact change_latches
    | _ => cases hd
  | false =>
    rw [quickOp_eq hd]
    exact unaryEa_latches h

theorem bitTest_latches {e : Ea} {bn : Nat} (h : Admits F e) : Latches F (bitTest e bn) :=
  (readEa_latches h _).bind fun _ => setFlags_latches _

theorem bitChange_latches {e : Ea} {bn : Nat} {op : Word → Word → Word} (h : Admits F e) :
    Latches F (bitChange e bn op) :=
  (resolve_latches h _).bind fun _ => (readLoc_latches _ _).bind fun _ => (setFlags_latches _).bind fun _ =>
    writeLoc_latches _ _ _

theorem staticBit_latches : Latches F staticBit := fetch16_latches.bind fun _ => pure_latches _

theorem shiftReg_latches {k : ShiftKind} {c : ShiftCount} {sz : Size} {n : Reg} : Latches F (shiftReg k c sz n) :=
  (look_latches _).bind fun _ => (readLoc_latches _ _).bind fun _ => (look_latches _).bind fun _ =>
    write_flags_latches _ _ _ _

theorem shiftMem_latches {k : ShiftKind} {dst : Ea} (h : Admits F dst) : Latches F (shiftMem k dst) :=
  (resolve_latches h _).bind fun _ => (readLoc_latches _ _).bind fun _ => (look_latches _).bind fun _ =>
    write_flags_latches _ _ _ _

theorem moveOp_latches {sz : Size} {dst src : Ea} (hs : Admits F src) (hd : Admits F dst) :
    Latches F (moveOp sz dst src) :=
  (readEa_latches hs sz).bind fun _ => (resolve_latches hd sz).bind fun _ => write_flags_latches _ _ _ _

theorem logicCcr_latches {op : Half → Half → Half} : Latches F (logicCcr op) :=
  fetch16_latches.bind fun _ => setFlags_latches _

theorem logicSr_latches {op : Half → Half → Half} : Latches F (logicSr op) :=
  privileged_latches (fetch16_latches.bind fun _ => setFlags_latches _)

theorem bcdFinish_latches (l : Loc) (valid : Bool) (t : Int) (carry : Bool) : Latches F (bcdFinish l valid t carry) :=
  drawBit_latches.bind fun _ => drawBit_latches.bind fun _ => .ite (write_flags_latches _ _ _ _)
    (drawByte_latches.bind fun _ => drawBit_latches.bind fun _ => drawBit_latches.bind fun _ =>
      drawBit_latches.bind fun _ => write_flags_latches _ _ _ _)

theorem divide_latches {n : Reg} {q r : Half} {zero large : Prop} [Decidable zero] [Decidable large] :
    Latches F (if zero then divideByZero else if large then divideOverflow else divideResult n q r) := by
  refine .ite ?_ (.ite ?_ ?_)
  · exact drawBit_latches.bind fun _ => drawBit_latches.bind fun _ => drawBit_latches.bind fun _ =>
      (setFlags_latches _).bind fun _ => raiseNext_latches 5
  · exact drawBit_latches.bind fun _ => drawBit_latches.bind fun _ => setFlags_latches _
  · exact .bind change_latches fun _ => setFlags_latches _

/-! ### Register lists -/

theorem storeDown_latches (sz : Size) (l : List Word) (a : Word) : Latches F (storeDown sz l a) := by
  induction l generalizing a with
  | nil => exact pure_latches _
  | cons v rest ih => exact (writeMem_latches _ _ _).bind fun _ => ih _

theorem storeUp_latches (sz : Size) (l : List (Fin 16)) (a : Word) : Latches F (storeUp sz l a) := by
  induction l generalizing a with
  | nil => exact pure_latches _
  | cons i rest ih => exact (look_latches _).bind fun _ => (writeMem_latches _ _ _).bind fun _ => ih _

theorem State.setReg16_fault (s : State) (i : Fin 16) (v : Word) : (s.setReg16 i v).fault = s.fault := by
  unfold State.setReg16
  split <;> simp

theorem loadUp_latches (sz : Size) (l : List (Fin 16)) (a : Word) : Latches F (loadUp sz l a) := by
  induction l generalizing a with
  | nil => exact pure_latches _
  | cons i rest ih =>
    exact (readMem_latches _ _).bind fun _ => (change_latches fun s => s.setReg16_fault i _).bind fun _ => ih _

theorem movepStore_latches (l : List Byte) (a : Word) : Latches F (movepStore l a) := by
  induction l generalizing a with
  | nil => exact pure_latches _
  | cons b rest ih => exact (writeMem_latches _ _ _).bind fun _ => ih _

theorem movepLoad_latches (k : Nat) (v a : Word) : Latches F (movepLoad k v a) := by
  induction k generalizing v a with
  | zero => exact pure_latches _
  | succ k ih => exact (readMem_latches _ _).bind fun _ => ih _ _
end

/-! ## Every instruction -/

/-- The host-level faults an instruction can latch: of an indexed operand, of `RTE`, of `RESET`. -/
def MayLatch (i : Instr) (r : Fault) : Prop :=
  (r = .unsupportedExtensionWord ∧
      ∃ e ∈ (written i).toList.map Prod.snd ++ consulted i, (∃ n, e = .index n) ∨ e = .pcIndex) ∨
    (r = .badFrameFormat ∧ i = .rte) ∨ (r = .resetInstruction ∧ i = .reset)

theorem written_admits {i : Instr} {sz : Size} {e : Ea} (h : written i = some (sz, e)) : Admits (MayLatch i) e :=
  fun he => .inl ⟨rfl, e, by simp [h], he⟩

theorem consulted_admits {i : Instr} {e : Ea} (h : e ∈ consulted i) : Admits (MayLatch i) e :=
  fun he => .inl ⟨rfl, e, List.mem_append_right _ h, he⟩

/-- The instruction runs a body that latches no other fault. -/
def LatchesOnly (i : Instr) (s : State) : Prop := ∃ m, exec i s = finish m s ∧ Latches (MayLatch i) m

section
variable {s : State}

theorem movep_latchesOnly (x : Reg) (toMem long : Bool) (y : Reg) : LatchesOnly (.movep x toMem long y) s :=
  ⟨_, rfl, (look_latches _).bind fun _ => fetch16_latches.bind fun _ =>
    .ite ((look_latches _).bind fun _ => movepStore_latches _ _)
      ((movepLoad_latches _ _ _).bind fun _ => change_latches)⟩

theorem movemToMem_latchesOnly (long : Bool) (dst : Ea) : LatchesOnly (.movemToMem long dst) s := by
  cases h : dst.isPredec with
  | true =>
    cases dst with
    | predec r =>
      exact ⟨_, rfl, fetch16_latches.bind fun _ => (look_latches _).bind fun _ => (look_latches _).bind fun _ =>
        (storeDown_latches _ _ _).bind fun _ => change_latches⟩
    | _ => cases h
  | false =>
    exact ⟨_, exec_movemToMem_up long h, fetch16_latches.bind fun _ =>
      (resolveAddress_latches (consulted_admits (.head _)) _).bind fun _ => storeUp_latches _ _ _⟩

theorem movemToRegs_latchesOnly (long : Bool) (src : Ea) : LatchesOnly (.movemToRegs long src) s := by
  cases h : src.isPostinc with
  | true =>
    cases src with
    | postinc r =>
      exact ⟨_, rfl, fetch16_latches.bind fun _ => (look_latches _).bind fun _ => (loadUp_latches _ _ _).bind fun _ =>
        change_latches⟩
    | _ => cases h
  | false =>
    exact ⟨_, exec_movemToRegs_plain long h, fetch16_latches.bind fun _ =>
      (resolveAddress_latches (consulted_admits (.head _)) _).bind fun _ => (loadUp_latches _ _ _).bind fun _ =>
        pure_latches _⟩

theorem link_latchesOnly (n : Reg) : LatchesOnly (.link n) s := by
  refine ⟨_, rfl, fetch16_latches.bind fun w => ?_⟩
  have push_link (v : Word) : Latches (MayLatch (.link n)) (push .l v >>= fun _ => look State.sp >>= fun sp =>
      change (fun s => s.setA n sp) >>= fun _ => change fun s => s.setSp (s.sp + w.signExtend 32)) :=
    (push_latches _ _).bind fun _ => (look_latches _).bind fun _ => .bind change_latches fun _ => change_latches
  exact .ite (drawWord_latches.bind push_link) ((look_latches _).bind push_link)

theorem unlk_latchesOnly (n : Reg) : LatchesOnly (.unlk n) s :=
  ⟨_, rfl, (look_latches _).bind fun _ => .bind change_latches fun _ => (pop_latches _).bind fun _ =>
    .ite (drawWord_latches.bind fun _ => change_latches) change_latches⟩

theorem dbcc_latchesOnly (c : Cond) (n : Reg) : LatchesOnly (.dbcc c n) s :=
  ⟨_, rfl, (look_latches _).bind fun _ => fetch16_latches.bind fun _ => (look_latches _).bind fun _ =>
    .ite (pure_latches _) ((look_latches _).bind fun _ => .bind change_latches fun _ =>
      .ite (pure_latches _) change_latches)⟩

theorem chk_latchesOnly (n : Reg) (src : Ea) : LatchesOnly (.chk n src) s :=
  ⟨_, rfl, (readEa_latches (consulted_admits (.head _)) _).bind fun _ => (look_latches _).bind fun _ =>
    drawBit_latches.bind fun _ => drawBit_latches.bind fun _ => drawBit_latches.bind fun _ =>
    (setFlags_latches _).bind fun _ => .ite ((setFlags_latches _).bind fun _ => raiseNext_latches 6)
      (.ite ((setFlags_latches _).bind fun _ => raiseNext_latches 6) (drawBit_latches.bind fun _ => setFlags_latches _))⟩

/-- `RTE` stops on a frame format it does not know (47 R344). -/
theorem rte_latchesOnly : LatchesOnly .rte s :=
  ⟨_, rfl, privileged_latches ((look_latches _).bind fun _ => (readMem_latches _ _).bind fun _ =>
    (readMem_latches _ _).bind fun _ => (readMem_latches _ _).bind fun _ =>
    .ite (.bind change_latches fun _ => change_latches) (.hostFault (.inr (.inl ⟨rfl, rfl⟩))))⟩

theorem reset_latchesOnly : LatchesOnly .reset s :=
  ⟨_, rfl, privileged_latches (.hostFault (.inr (.inr ⟨rfl, rfl⟩)))⟩

theorem exec_latchesOnly (i : Instr) : LatchesOnly i s := by
  cases i with
  | oriToCcr | andiToCcr | eoriToCcr => exact ⟨_, rfl, logicCcr_latches⟩
  | oriToSr | andiToSr | eoriToSr => exact ⟨_, rfl, logicSr_latches⟩
  | ori | andi | eori | addi | subi => exact ⟨_, rfl, immToEa_latches (written_admits rfl)⟩
  | cmpi =>
    exact ⟨_, rfl, (fetchImm_latches _).bind fun _ => (readEa_latches (consulted_admits (.head _)) _).bind fun _ =>
      setFlags_latches _⟩
  | btstImm => exact ⟨_, rfl, staticBit_latches.bind fun _ => bitTest_latches (consulted_admits (.head _))⟩
  | bchgImm | bclrImm | bsetImm => exact ⟨_, rfl, staticBit_latches.bind fun _ => bitChange_latches (written_admits rfl)⟩
  | btstReg => exact ⟨_, rfl, (look_latches _).bind fun _ => bitTest_latches (consulted_admits (.head _))⟩
  | bchgReg | bclrReg | bsetReg => exact ⟨_, rfl, (look_latches _).bind fun _ => bitChange_latches (written_admits rfl)⟩
  | movep x toMem long y => exact movep_latchesOnly x toMem long y
  | moveB | moveW | moveL => exact ⟨_, rfl, moveOp_latches (consulted_admits (.head _)) (written_admits rfl)⟩
  | moveaW | moveaL => exact ⟨_, rfl, moveaOp_latches (consulted_admits (.head _))⟩
  | neg | negx => exact ⟨_, rfl, unaryEa_latches (written_admits rfl)⟩
  | moveFromSr | scc =>
    exact ⟨_, rfl, (resolve_latches (written_admits rfl) _).bind fun _ => (look_latches _).bind fun _ =>
      writeLoc_latches _ _ _⟩
  | chk n src => exact chk_latchesOnly n src
  | lea => exact ⟨_, rfl, (resolveAddress_latches (consulted_admits (.head _)) _).bind fun _ => change_latches⟩
  | jmp => exact ⟨_, rfl, (resolveAddress_latches (consulted_admits (.head _)) _).bind fun _ => change_latches⟩
  | pea => exact ⟨_, rfl, (resolveAddress_latches (consulted_admits (.head _)) _).bind fun _ => push_latches _ _⟩
  | jsr =>
    exact ⟨_, rfl, (resolveAddress_latches (consulted_admits (.head _)) _).bind fun _ => (look_latches _).bind fun _ =>
      (push_latches _ _).bind fun _ => change_latches⟩
  | clr => exact ⟨_, rfl, (resolve_latches (written_admits rfl) _).bind fun _ => write_flags_latches _ _ _ _⟩
  | notOp =>
    exact ⟨_, rfl, (resolve_latches (written_admits rfl) _).bind fun _ => (readLoc_latches _ _).bind fun _ =>
      write_flags_latches _ _ _ _⟩
  | moveToCcr => exact ⟨_, rfl, (readEa_latches (consulted_admits (.head _)) _).bind fun _ => setFlags_latches _⟩
  | moveToSr =>
    exact ⟨_, rfl, privileged_latches ((readEa_latches (consulted_admits (.head _)) _).bind fun _ => setFlags_latches _)⟩
  | nbcd =>
    exact ⟨_, rfl, (resolve_latches (written_admits rfl) _).bind fun _ => (readLoc_latches _ _).bind fun _ =>
      (look_latches _).bind fun _ => bcdFinish_latches _ _ _ _⟩
  | abcd | sbcd =>
    exact ⟨_, rfl, (pairOperands_latches _ _ _ _).bind fun _ => (look_latches _).bind fun _ => bcdFinish_latches _ _ _ _⟩
  | addx | subx => exact ⟨_, rfl, extendedOp_latches⟩
  | swap => exact ⟨_, by rw [exec, execSwap], look_change_flags_latches⟩
  | extW => exact ⟨_, by rw [exec, execExtW], look_change_flags_latches⟩
  | extL => exact ⟨_, by rw [exec, execExtL], look_change_flags_latches⟩
  | movemToMem long dst => exact movemToMem_latchesOnly long dst
  | movemToRegs long src => exact movemToRegs_latchesOnly long src
  | tst => exact ⟨_, rfl, (readEa_latches (consulted_admits (.head _)) _).bind fun _ => setFlags_latches _⟩
  | tas =>
    exact ⟨_, rfl, (resolve_latches (written_admits rfl) _).bind fun _ => (readLoc_latches _ _).bind fun _ =>
      (setFlags_latches _).bind fun _ => writeLoc_latches _ _ _⟩
  | trap => exact ⟨_, rfl, raiseNext_latches _⟩
  | trapv => exact ⟨_, rfl, (look_latches _).bind fun _ => .ite (raiseNext_latches 7) (pure_latches _)⟩
  | link n => exact link_latchesOnly n
  | unlk n => exact unlk_latchesOnly n
  | moveAnUsp | moveUspAn => exact ⟨_, rfl, privileged_latches change_latches⟩
  | reset => exact reset_latchesOnly
  | nop => exact ⟨pure (), rfl, pure_latches _⟩
  | stop => exact ⟨_, rfl, privileged_latches (fetch16_latches.bind fun _ => change_latches)⟩
  | rte => exact rte_latchesOnly
  | rts => exact ⟨_, by rw [exec, execRts], (pop_latches _).bind fun _ => change_latches⟩
  | rtr =>
    exact ⟨_, by rw [exec, execRtr], (pop_latches _).bind fun _ => (setFlags_latches _).bind fun _ =>
      (pop_latches _).bind fun _ => change_latches⟩
  | addq | subq => exact ⟨_, rfl, quickOp_latches (written_admits rfl)⟩
  | dbcc c n => exact dbcc_latchesOnly c n
  | bra => exact ⟨_, rfl, (look_latches _).bind fun _ => (branchDisp_latches _).bind fun _ => change_latches⟩
  | bsr =>
    exact ⟨_, rfl, (look_latches _).bind fun _ => (branchDisp_latches _).bind fun _ => (look_latches _).bind fun _ =>
      (push_latches _ _).bind fun _ => change_latches⟩
  | bcc =>
    exact ⟨_, rfl, (look_latches _).bind fun _ => (branchDisp_latches _).bind fun _ => (look_latches _).bind fun _ =>
      .ite change_latches (pure_latches _)⟩
  | moveq => exact ⟨_, by rw [exec, execMoveq], .bind change_latches fun _ => setFlags_latches _⟩
  | divu | divs =>
    exact ⟨_, rfl, (readEa_latches (consulted_admits (.head _)) _).bind fun _ => (look_latches _).bind fun _ =>
      divide_latches⟩
  | mulu | muls =>
    exact ⟨_, rfl, (readEa_latches (consulted_admits (.head _)) _).bind fun _ => (look_latches _).bind fun _ =>
      .bind change_latches fun _ => setFlags_latches _⟩
  | orEaDn | andEaDn | addEaDn | subEaDn => exact ⟨_, rfl, eaToDn_latches (consulted_admits (.head _))⟩
  | orDnEa | andDnEa | addDnEa | subDnEa | eor => exact ⟨_, rfl, dnToEa_latches (written_admits rfl)⟩
  | exgDD => exact ⟨_, by rw [exec, execExgDD], change_latches⟩
  | exgAA => exact ⟨_, by rw [exec, execExgAA], change_latches⟩
  | exgDA => exact ⟨_, by rw [exec, execExgDA], change_latches⟩
  | addaW | addaL | subaW | subaL => exact ⟨_, rfl, addressOp_latches (consulted_admits (.head _))⟩
  | cmp =>
    exact ⟨_, rfl, (readEa_latches (consulted_admits (.head _)) _).bind fun _ => (look_latches _).bind fun _ =>
      setFlags_latches _⟩
  | cmpaW | cmpaL => exact ⟨_, rfl, compareAddress_latches (consulted_admits (.head _))⟩
  | cmpm =>
    exact ⟨_, rfl, (readEa_latches (postinc_admits _) _).bind fun _ => (readEa_latches (postinc_admits _) _).bind fun _ =>
      setFlags_latches _⟩
  | asrReg | aslReg | lsrReg | lslReg | roxrReg | roxlReg | rorReg | rolReg => exact ⟨_, rfl, shiftReg_latches⟩
  | asrMem | aslMem | lsrMem | lslMem | roxrMem | roxlMem | rorMem | rolMem =>
    exact ⟨_, rfl, shiftMem_latches (written_admits rfl)⟩
end

theorem exec_fault {i : Instr} {s t : State} (h : exec i s = .next t) :
    t.fault = s.fault ∨ ∃ r, t.fault = some r ∧ MayLatch i r := by
  obtain ⟨m, hm, hl⟩ := exec_latchesOnly i (s := s)
  rw [hm] at h
  rcases finish_next h with e | ⟨r, u, e, rfl⟩
  · exact .inl (hl.ok s () t e)
  · exact .inr ⟨r, rfl, hl.fault s r u e⟩

/-- Settles O16: `exec_special` for what stays, `exec_fault` for the fault that may be latched. -/
theorem specialStateFrame : Obligations.SpecialStateFrame := by
  unfold Obligations.SpecialStateFrame
  intro i s t h
  obtain ⟨hp, hv, cp, cm, cd, hc, hu⟩ := exec_special h
  refine ⟨hp, hv, cp, cm, cd, hc, hu, ?_⟩
  rcases exec_fault h with hf | ⟨r, hf, ⟨rfl, he⟩ | ⟨rfl, hi⟩ | ⟨rfl, hi⟩⟩
  · exact .inl hf
  · exact .inr (.inl ⟨hf, he⟩)
  · exact .inr (.inr (.inl ⟨hf, hi⟩))
  · exact .inr (.inr (.inr ⟨hf, hi⟩))
end
end Sys2Proof.Machine

namespace Sys2Proof.Machine

/-! # The status word, the active stack pointer, reset -/

section

/-! ## The status word as 16 bits (10_state R28) -/

/-- Which bit of the word each part of the status word is. -/
theorem Status.toWord_getLsbD (f : Status) {j : Nat} (hj : j < 16) : f.toWord.getLsbD j =
    if j = 15 then f.t else if j = 13 then f.s else if j = 12 then f.m
    else if j = 10 ∨ j = 9 ∨ j = 8 then f.i.getLsbD (j - 8)
    else if j = 4 then f.x else if j = 3 then f.n else if j = 2 then f.z else if j = 1 then f.v else if j = 0 then f.c
    else false := by
  simp only [Status.toWord, BitVec.getLsbD_append, BitVec.getLsbD_ofBool]
  interval_cases j <;> simp

theorem append_toNat {m n : Nat} (x : BitVec m) (y : BitVec n) : (x ++ y).toNat = x.toNat * 2 ^ n + y.toNat := by
  rw [BitVec.toNat_append, ← Nat.shiftLeft_add_eq_or_of_lt y.isLt, Nat.shiftLeft_eq]

theorem ofBool_toNat (b : Bool) : (BitVec.ofBool b).toNat = bitNat b := by cases b <;> rfl

theorem Status.toWord_toNat (f : Status) : f.toWord.toNat = 0x8000 * bitNat f.t + 0x2000 * bitNat f.s +
    0x1000 * bitNat f.m + 0x100 * f.i.toNat + 16 * bitNat f.x + 8 * bitNat f.n + 4 * bitNat f.z + 2 * bitNat f.v +
    bitNat f.c := by
  simp only [Status.toWord, append_toNat, ofBool_toNat, BitVec.toNat_ofNat]
  omega

theorem Status.ofWord_toWord (f : Status) : Status.ofWord f.toWord = f := by
  have hi : f.toWord.extractLsb' 8 3 = f.i := by
    refine BitVec.eq_of_getLsbD_eq fun j hj => ?_
    rw [BitVec.getLsbD_extractLsb', Status.toWord_getLsbD f (by omega)]
    interval_cases j <;> simp
  simp only [Status.ofWord, hi, Status.toWord_getLsbD f, Nat.reduceLT]
  rfl

/-- Settles O24: bit by bit through `toWord_getLsbD`. -/
theorem statusWordLayout : Obligations.StatusWordLayout := by
  unfold Obligations.StatusWordLayout
  refine ⟨fun w => ?_, Status.ofWord_toWord, Status.toWord_toNat, fun f w => ?_⟩
  · refine BitVec.eq_of_getLsbD_eq fun j hj => ?_
    rw [Status.toWord_getLsbD _ hj, BitVec.getLsbD_and]
    interval_cases j <;> simp [Status.ofWord]
  · refine BitVec.eq_of_getLsbD_eq fun j hj => ?_
    rw [Status.toWord_getLsbD _ hj, BitVec.getLsbD_or, BitVec.getLsbD_and, BitVec.getLsbD_and, Status.toWord_getLsbD _ hj]
    interval_cases j <;> simp [Status.withCcr]

/-! ## The active stack pointer (10_state R24) -/

theorem State.setA_seven (s : State) (v : Word) : s.setA 7 v = s.setSp v := dif_neg (by decide)

/-- Settles O23: register 7 is `sp` and `setSp`, which `S` and `M` select. -/
theorem activeStackPointer : Obligations.ActiveStackPointer := by
  unfold Obligations.ActiveStackPointer
  intro s v
  rw [State.areg_seven, State.setA_seven]
  unfold State.sp State.setSp
  refine ⟨fun hs => ?_, fun hs hm => ?_, fun hs hm => ?_, rfl⟩
  · simp [hs]
  · simp [hs, hm]
  · simp [hs, hm]

/-! ## Construction (10_state R51 to R57, 70 R650) -/

/-- What construction asks of the parameters that it reads itself. -/
theorem Params.legal_bounds {p : Params} (h : p.legal = true) :
    0 < p.dacClockHz ∧ p.dacClockHz ≤ Config.sysClockHz ∧ 1 ≤ p.mfpIrqLevel.toNat ∧ p.mfpIrqLevel.toNat ≤ 6 := by
  simp only [Params.legal, Bool.and_eq_true, decide_eq_true_eq] at h
  obtain ⟨⟨⟨⟨⟨⟨⟨⟨h0, h1⟩, h2⟩, h3⟩, -⟩, -⟩, -⟩, -⟩, -⟩ := h
  exact ⟨h0, h1, h2, h3⟩

/-- Legal reset values are those that give a sound state. -/
theorem State.cold_sound {p : Params} {r : ResetValues} (hp : p.legal = true) (hr : r.legal p = true) :
    (State.cold p r).Sound := by
  simp only [ResetValues.legal, Bool.and_eq_true] at hr
  obtain ⟨⟨⟨⟨⟨hg, hm⟩, hd⟩, cg⟩, cm⟩, cd⟩ := hr
  exact ⟨⟨rfl, hg, (Mfp.ok_iff _).mp hm, (Dac.ok_iff _).mp hd⟩, hp, cg, cm, cd⟩

/-- The read of the initial `ISP`, and the read of the initial `PC` after it (10_state R52). -/
def readIsp (p : Params) (r : ResetValues) : Word × State := memRead (State.cold p r) p.vbrReset .l
def readPc (p : Params) (r : ResetValues) : Word × State := memRead (readIsp p r).2 (p.vbrReset + 4) .l

/-- The state that construction answers: as configured, but for what the reads of the two vectors give and turn. -/
def built (p : Params) (r : ResetValues) : State :=
  { State.cold p r with isp := (readIsp p r).1, pc := (readPc p r).1, dac := (readPc p r).2.dac }

section
variable {p : Params} {r : ResetValues}

theorem construct_legal (hp : p.legal = true) (hr : r.legal p = true) : construct p r = .next (built p r) := by
  obtain ⟨-, -, h1, h6⟩ := Params.legal_bounds hp
  have hlevel : ¬ (p.mfpIrqLevel = 0 ∨ p.mfpIrqLevel = 7) := by
    rintro (h | h) <;> rw [h] at h1 h6 <;> revert h1 h6 <;> decide
  have hstate : (readPc p r).2 = { State.cold p r with dac := (readPc p r).2.dac } := by
    rw [readPc, memRead_keeps, readIsp, memRead_keeps]
  have hread : construct p r = .next { (readPc p r).2 with isp := (readIsp p r).1, pc := (readPc p r).1 } := by
    rw [construct, if_neg hlevel, hp, hr]
    rfl
  rw [hread, hstate]
  rfl

theorem built_sound (hp : p.legal = true) (hr : r.legal p = true) : (built p r).Sound := by
  have h := State.cold_sound hp hr
  have hd : DevicesSound (readPc p r).2 := memRead_sound _ _ (memRead_sound _ _ h.toDevicesSound)
  exact { h with dac := hd.dac }

/-- Outside a transaction the reads of the vectors turn nothing (63 R575). -/
theorem built_dac (h : r.dac.mwCycles = 0) : (built p r).dac = r.dac := by
  have ht : Turned r.dac (readPc p r).2.dac := (memRead_turned (State.cold p r) _ _).trans (memRead_turned _ _ _)
  obtain ⟨m, n, e, hmn⟩ := ht
  obtain ⟨rfl, rfl⟩ := hmn h
  show (readPc p r).2.dac = r.dac
  rw [e, ← h]

/-! ### The reset vectors in RAM -/

/-- RAM at reset reads everywhere as `RAM_INIT` (10_state R53). -/
theorem cold_ram_access {o : Nat} (h : o + 4 ≤ Config.ramSize) :
    ((State.cold p r).ram.access o .l).toNat = p.ramInit.toNat * 0x1010101 := by
  have hk : ∀ k, k < 4 → (State.cold p r).ram.readAt o k = p.ramInit := fun k hk => if_pos (by omega)
  simp only [Memory.access, joinBytes, hk, append_toNat, Nat.reduceLT]
  omega

theorem busAddr_add_four {a : Word} (h : busAddr a + 8 ≤ Config.ramSize) : busAddr (a + 4) = busAddr a + 4 := by
  unfold busAddr Config.addrBits Config.ramSize at *
  rw [BitVec.toNat_add, show (4 : Word).toNat = 4 from rfl]
  omega

/-- With the vectors in RAM, both are `RAM_INIT` four times, and nothing is turned. -/
theorem built_ram_vectors (h : busAddr p.vbrReset + 8 ≤ Config.ramSize) :
    (built p r).isp.toNat = p.ramInit.toNat * 0x1010101 ∧ (built p r).pc = (built p r).isp ∧ (built p r).dac = r.dac := by
  have hadd := busAddr_add_four h
  have hisp : readIsp p r = ((State.cold p r).ram.access (busAddr p.vbrReset) .l, State.cold p r) :=
    memRead_ram .l (by omega)
  have hpc : readPc p r = ((State.cold p r).ram.access (busAddr (p.vbrReset + 4)) .l, State.cold p r) := by
    rw [readPc, hisp]
    exact memRead_ram .l (by omega)
  have hi : (built p r).isp.toNat = p.ramInit.toNat * 0x1010101 := by
    rw [built, hisp]
    exact cold_ram_access (by omega)
  refine ⟨hi, BitVec.eq_of_toNat_eq ?_, ?_⟩
  · rw [hi, built, hpc]
    exact cold_ram_access (by omega)
  · rw [built, hpc]
    rfl
end

/-! ### The spec's reset values -/

/-- The spec's reset values are legal, whatever the registers that it leaves open hold (10_state R52). -/
theorem standard_legal {p : Params} (hp : p.legal = true) (d : Vector Word 8) (a : Vector Word 7) (usp ssp : Word) :
    ResetValues.legal p { ResetValues.standard p with d := d, a := a, usp := usp, ssp := ssp } = true := by
  obtain ⟨h0, h1, -, -⟩ := Params.legal_bounds hp
  have hpsg : Psg.cold.masked = true := by decide
  have hmfp : Mfp.cold.ok = true := by decide
  have hdac : Dac.cold.ok = true := by decide
  have hg : (ClockManager.cold Config.sysClockHz Config.psgClockHz).ok = true :=
    ClockManager.ok_cold (by decide) (by decide)
  have hm : (ClockManager.cold Config.sysClockHz Config.mfpClockHz).ok = true :=
    ClockManager.ok_cold (by decide) (by decide)
  have hd : (ClockManager.cold Config.sysClockHz p.dacClockHz).ok = true := ClockManager.ok_cold h0 h1
  simp only [ResetValues.legal, ResetValues.standard, ClockManager.start_cold, hpsg, hmfp, hdac, hg, hm, hd, Bool.and_self]

theorem standard_params_legal : Params.standard.legal = true := by decide

/-- With `VBR` and RAM at 0 both vectors are 0. -/
theorem built_zero {p : Params} (r : ResetValues) (hv : p.vbrReset = 0) (hi : p.ramInit = 0) :
    (built p r).isp = 0 ∧ (built p r).pc = 0 ∧ (built p r).dac = r.dac := by
  have h : busAddr p.vbrReset + 8 ≤ Config.ramSize := by
    rw [hv]
    decide
  obtain ⟨hisp, hpc, hdac⟩ := built_ram_vectors (r := r) h
  have h0 : (built p r).isp = 0 := BitVec.eq_of_toNat_eq (by rw [hisp, hi]; rfl)
  exact ⟨h0, hpc.trans h0, hdac⟩

theorem built_standard : built Params.standard (ResetValues.standard Params.standard) = State.reset := by
  obtain ⟨hisp, hpc, hdac⟩ := built_zero (p := Params.standard) (ResetValues.standard Params.standard) rfl rfl
  rw [built] at *
  simp only at hisp hpc hdac
  rw [hisp, hpc, hdac]
  rfl

/-- Settles O59: construction at legal values answers `built`, whose parts are read off. -/
theorem resetValuesOfTheSpec : Obligations.ResetValuesOfTheSpec := by
  unfold Obligations.ResetValuesOfTheSpec
  refine ⟨fun p d a usp ssp hp hv hi => ?_, fun p r hp hr => ?_, ?_⟩
  · refine ⟨_, construct_legal hp (standard_legal hp d a usp ssp), ?_⟩
    obtain ⟨hisp, hpc, hdac⟩ := built_zero { ResetValues.standard p with d := d, a := a, usp := usp, ssp := ssp } hv hi
    have hsr : Status.cold.toWord = 0x2700 := by decide
    refine ⟨hsr, hv, hisp, hpc, rfl, rfl, rfl, rfl, rfl, rfl, fun x hx => ?_, rfl, rfl, hdac, ?_, rfl, ?_, ?_, rfl⟩
    · exact (peek_ram hx).trans hi
    · rw [hdac]
      rfl
    · show 32000000 / 2000000 + 32000000 % 2000000 / 2000000 = 16
      norm_num
    · show 32000000 / 2457600 + 32000000 % 2457600 / 2457600 = 13
      norm_num
  · exact ⟨_, construct_legal hp hr, (State.inv_iff _).mpr (built_sound hp hr), rfl, rfl, rfl, rfl, rfl, rfl, rfl, rfl,
      rfl, rfl, rfl, built_dac, rfl, rfl, rfl, built_ram_vectors⟩
  · rw [construct_legal standard_params_legal (standard_legal standard_params_legal _ _ _ _)]
    exact congrArg _ built_standard

/-- Settles O58: `State.reset` is built from legal values. -/
theorem invariantHoldsAtReset : Obligations.InvariantHoldsAtReset := by
  unfold Obligations.InvariantHoldsAtReset
  rw [State.inv_iff]
  exact State.cold_sound standard_params_legal (standard_legal standard_params_legal _ _ _ _)
end
end Sys2Proof.Machine

namespace Sys2Proof.Machine

/-! # Memory

RAM byte by byte in naturals, and the router on two addresses with the same low 24 bits and on an unmapped one. -/

section

/-! ## Big-endian values in naturals (20_memory R90) -/

theorem joinBytes_toNat (sz : Size) (f : Nat → Byte) :
    (joinBytes sz f).toNat =
      ((List.range (byteCount sz)).map fun k => (f k).toNat * 256 ^ (byteCount sz - 1 - k)).sum := by
  cases sz <;>
    simp only [joinBytes, byteCount, append_toNat, BitVec.toNat_setWidth, List.sum_range_succ, List.range_zero,
      List.map_nil, List.sum_nil, Nat.reducePow, Nat.reduceSub] <;>
    omega

/-- Byte `k` of a value is its base-256 digit of that place. -/
theorem byteOf_toNat (sz : Size) (v : Word) (k : Nat) :
    (byteOf sz v k).toNat = v.toNat / 256 ^ (byteCount sz - 1 - k) % 256 := by
  rw [byteOf, BitVec.extractLsb'_toNat, Nat.shiftRight_eq_div_pow, Nat.pow_mul]

/-! ## RAM (20_memory R87, R89) -/

theorem Memory.readAt_toNat (m : Memory) (o k : Nat) :
    (m.readAt o k).toNat = if o + k < Config.ramSize then (m.read (o + k)).toNat else 0 :=
  apply_ite BitVec.toNat _ _ _

theorem Memory.access_toNat (m : Memory) (o : Nat) (sz : Size) :
    (m.access o sz).toNat =
      ((List.range (byteCount sz)).map fun k =>
        if o + k < Config.ramSize then (m.read (o + k)).toNat * 256 ^ (byteCount sz - 1 - k) else 0).sum := by
  simp only [Memory.access, joinBytes_toNat, Memory.readAt_toNat, ite_mul, zero_mul]

/-- A byte of RAM after a store, in naturals. -/
theorem Memory.read_store_toNat (m : Memory) (o : Nat) (sz : Size) (v : Word) {b : Nat} (hb : b < Config.ramSize) :
    ((m.store o sz v).read b).toNat =
      if o ≤ b ∧ b < o + byteCount sz then v.toNat / 256 ^ (byteCount sz - 1 - (b - o)) % 256 else (m.read b).toNat := by
  simp only [Memory.read_store, hb, and_true, apply_ite BitVec.toNat, byteOf_toNat]

/-- Settles O28: in RAM a read is `Memory.access` and a write is `Memory.store`, each byte by byte in naturals. -/
theorem ramBytes : Obligations.RamBytes := by
  unfold Obligations.RamBytes
  intro s a ha
  refine ⟨fun sz => ?_, fun sz v => ⟨_, memWrite_ram sz v ha, rfl, fun x hx => ?_⟩⟩
  · rw [memRead_ram sz ha]
    exact ⟨rfl, Memory.access_toNat _ _ _⟩
  · rw [peek_ram hx, peek_ram hx]
    exact Memory.read_store_toNat _ _ _ _ hx

/-! ## Routing (20_memory R82, R84, R86) -/

/-- An address in none of the four ranges is routed nowhere. -/
theorem route_unmapped {a : Word} (hram : Config.ramSize ≤ busAddr a)
    (hpsg : ¬ (Config.psgBase ≤ busAddr a ∧ busAddr a < Config.psgBase + Config.psgSize))
    (hdac : ¬ (Config.dacBase ≤ busAddr a ∧ busAddr a < Config.dacBase + Config.dacSize))
    (hmfp : ¬ (Config.mfpBase ≤ busAddr a ∧ busAddr a < Config.mfpBase + Config.mfpSize)) : route a = none := by
  have hram' : ¬ (0 ≤ busAddr a ∧ busAddr a < Config.ramSize) := by omega
  simp only [route, bindings, routeIn, if_neg hram', if_neg hpsg, if_neg hmfp, if_neg hdac]

/-- The bus sees no more of an address than its low 24 bits. -/
theorem route_congr {a b : Word} (h : busAddr a = busAddr b) : route a = route b :=
  congrArg (routeIn · bindings) h

theorem memRead_congr {a b : Word} (h : route a = route b) (s : State) (sz : Size) : memRead s a sz = memRead s b sz := by
  rw [memRead, memRead, h]

theorem memWrite_congr {a b : Word} (h : route a = route b) (s : State) (sz : Size) (v : Word) :
    memWrite s a sz v = memWrite s b sz v := by
  rw [memWrite, memWrite, h]

theorem memRead_unmapped {a : Word} (h : route a = none) (s : State) (sz : Size) : memRead s a sz = (0, s) := by
  rw [memRead, h]

theorem memWrite_unmapped {a : Word} (h : route a = none) (s : State) (sz : Size) (v : Word) :
    memWrite s a sz v = .ok s := by
  rw [memWrite, h]

/-- Settles O29: a read and a write depend on the route of the address alone, and the route on its low 24 bits. -/
theorem busRouting : Obligations.BusRouting := by
  unfold Obligations.BusRouting
  refine ⟨fun s a b sz v h => ?_, fun s a sz v hram hpsg hdac hmfp => ?_⟩
  · have hr : route a = route b := route_congr h
    exact ⟨memRead_congr hr s sz, memWrite_congr hr s sz v⟩
  · have hr : route a = none := route_unmapped hram hpsg hdac hmfp
    exact ⟨memRead_unmapped hr s sz, memWrite_unmapped hr s sz v⟩
end
end Sys2Proof.Machine

namespace Sys2Proof.Machine

/-! # Data movement

The results of file 40. The register lists and `MOVEP` go through the bus one access after the other, as `storeAll` and
`readAll` do; a change of a register between two accesses does not show on the bus. -/

section
open Claims

/-! ## Values of a size -/

theorem trunc_of_lt {sz : Size} {v : Word} (h : v.toNat < span sz) : trunc sz v = v :=
  BitVec.eq_of_toNat_eq (by rw [trunc_toNat, Nat.mod_eq_of_lt h])

/-- `LOGIC` (00_scope R15) on a value of the size. -/
theorem Status.logic_eq {sz : Size} {v : Word} (h : v.toNat < span sz) (f : Status) : f.logic sz v = logicStatus sz v f := by
  rw [Status.logic, isZero, trunc_of_lt h, msbOf_eq_negative h]
  rfl

/-- Sign extension to a long word is the long word of the signed value. -/
theorem signExtend_eq_ofInt {k : Nat} (d : BitVec k) : d.signExtend 32 = BitVec.ofInt 32 d.toInt := rfl

theorem sext16_eq {v : Word} (h : v.toNat < span .w) : sext16 v = BitVec.ofInt 32 (signedOf .w v) := by
  have hv : (v.setWidth 16).toNat = v.toNat := (BitVec.toNat_setWidth 16 v).trans (Nat.mod_eq_of_lt h)
  rw [sext16, signExtend_eq_ofInt, BitVec.toInt_eq_toNat_cond, hv]
  rfl

/-- A source of an address register (10_state R22), as a signed value of its size. -/
theorem sextAddr_eq {sz : Size} {v : Word} (hsz : sz ≠ .b) (h : v.toNat < span sz) :
    sextAddr sz v = BitVec.ofInt 32 (signedOf sz v) := by
  cases sz with
  | b => exact absurd rfl hsz
  | w => exact sext16_eq h
  | l =>
    have hs : signedOf .l v = v.toInt := (BitVec.toInt_eq_toNat_cond v).symm
    rw [hs, BitVec.ofInt_toInt]
    rfl

theorem movemSize_ne_b (long : Bool) : movemSize long ≠ .b := by cases long <;> decide

theorem readEa_lt {e : Ea} {sz : Size} {s t : State} {v : Word} (h : readEa e sz s = .ok v t) : v.toNat < span sz := by
  obtain ⟨l, u, hr, hv⟩ := run_bind_inv h
  cases hv
  exact readLocFrom_lt (resolve_isOf hr) u

/-! ## `MOVE`, `MOVEA`, `MOVEQ` (40 R170 to R172) -/

/-- `anywhere` has no part of the status word. -/
theorem Path.sr_anywhere {s t : State} (p : Path anywhere s t) : t.sr = s.sr := p.status

theorem anywhere_permits (sz : Size) (l : Loc) : anywhere.Permits sz l := by
  cases l with
  | dreg n => exact List.mem_finRange n
  | areg n => exact List.mem_finRange n
  | mem a => trivial
  | imm v => trivial

/-- Reading the source, resolving the destination and writing through it leave the status word. -/
theorem move_operands_sr {sz : Size} {dst src : Ea} {s s1 s2 s3 : State} {v : Word} {loc : Loc}
    (hr : readEa src sz s = .ok v s1) (hd : resolve dst sz s1 = .ok loc s2) (hw : writeLoc loc sz v s2 = .ok () s3) :
    s3.sr = s.sr := by
  have p1 : Path anywhere s s1 := (readEa_follows sz fun n _ => List.mem_finRange n).ok v s1 hr
  have p2 : Path anywhere s1 s2 := (resolve_follows sz fun n _ => List.mem_finRange n).ok loc s2 hd
  have p3 : Path anywhere s2 s3 := (writeLoc_follows v (anywhere_permits sz loc)).ok () s3 hw
  exact Path.sr_anywhere ((p1.trans p2).trans p3)

theorem run_moveOp {sz : Size} {dst src : Ea} {s s1 s2 s3 : State} {v : Word} {loc : Loc}
    (hr : readEa src sz s = .ok v s1) (hd : resolve dst sz s1 = .ok loc s2) (hw : writeLoc loc sz v s2 = .ok () s3) :
    moveOp sz dst src s = .ok () (s3.setSr (logicStatus sz v s.sr)) := by
  rw [moveOp, run_bind_ok hr, run_bind_ok hd, run_bind_ok hw, run_setFlags, Status.logic_eq (readEa_lt hr),
    move_operands_sr hr hd hw]

theorem run_moveaOp {sz : Size} (hsz : sz ≠ .b) {n : Reg} {src : Ea} {s s1 : State} {v : Word}
    (hr : readEa src sz s = .ok v s1) :
    moveaOp sz n src s = .ok () (s1.setA n (BitVec.ofInt 32 (signedOf sz v))) := by
  rw [moveaOp, run_bind_ok hr, run_change, sextAddr_eq hsz (readEa_lt hr)]

/-- The flags of a sign-extended byte are those of the byte. -/
theorem logic_signExtend (d : Byte) (f : Status) :
    f.logic .l (d.signExtend 32) = { f with n := decide (128 ≤ d.toNat), z := decide (d = 0), v := false, c := false } := by
  have hn : msbOf .l (d.signExtend 32) = decide (128 ≤ d.toNat) :=
    (BitVec.msb_eq_getLsbD_last _).symm.trans (BitVec.msb_signExtend.trans d.msb_eq_decide)
  have hz : isZero .l (d.signExtend 32) = decide (d = 0) := by
    show decide (d.signExtend 32 = 0) = decide (d = 0)
    rw [decide_eq_decide, ← BitVec.toInt_inj, BitVec.toInt_signExtend_of_le (by decide), ← BitVec.toInt_inj]
    rfl
  rw [Status.logic, hn, hz]

theorem exec_move (dst src : Ea) (s : State) :
    ∀ p ∈ [(Instr.moveB, Size.b), (Instr.moveW, Size.w), (Instr.moveL, Size.l)],
      exec (p.1 dst src) s = finish (moveOp p.2 dst src) s := by
  simp only [List.forall_mem_cons]
  exact ⟨rfl, rfl, rfl, nofun⟩

theorem exec_movea (n : Reg) (src : Ea) (s : State) :
    ∀ p ∈ [(Instr.moveaW, Size.w), (Instr.moveaL, Size.l)],
      p.2 ≠ .b ∧ exec (p.1 n src) s = finish (moveaOp p.2 n src) s := by
  simp only [List.forall_mem_cons]
  exact ⟨⟨nofun, rfl⟩, ⟨nofun, rfl⟩, nofun⟩

theorem exec_moveq (n : Reg) (d : Byte) (s : State) :
    exec (.moveq n d) s = .next ((s.setD n (d.signExtend 32)).setSr (s.sr.logic .l (d.signExtend 32))) := rfl

/-- Settles O30: `run_moveOp` and `run_moveaOp` in every size, and `logic_signExtend` for `MOVEQ`. -/
theorem moveResults : Obligations.MoveResults := by
  unfold Obligations.MoveResults
  refine ⟨fun p hp s s1 s2 s3 dst src v loc _ hr hd hw => ?_, fun p hp s s1 n src v hr => ?_, fun s n d => ?_⟩
  · rw [exec_move dst src s p hp]
    exact finish_ok (run_moveOp hr hd hw)
  · obtain ⟨hsz, he⟩ := exec_movea n src s p hp
    rw [he]
    exact finish_ok (run_moveaOp hsz hr)
  · rw [exec_moveq, logic_signExtend, signExtend_eq_ofInt]

/-! ## Registers and the bus -/

/-- A read sees the memory and the devices alone. -/
theorem memRead_of_devices {s u : State} (hr : u.ram = s.ram) (hp : u.psg = s.psg) (hm : u.mfp = s.mfp)
    (hd : u.dac = s.dac) (a : Word) (sz : Size) :
    memRead u a sz = ((memRead s a sz).1, { u with dac := (memRead s a sz).2.dac }) := by
  unfold memRead
  rw [← hr, ← hp, ← hm, ← hd]
  split <;> simp only [← hd]

theorem State.setSp_dacOf (s : State) (v : Word) (d : Dac) :
    ({ s with dac := d } : State).setSp v = { s.setSp v with dac := d } := by
  unfold State.setSp
  split <;> [(split <;> rfl); rfl]

theorem State.setA_dacOf (s : State) (n : Reg) (v : Word) (d : Dac) :
    ({ s with dac := d } : State).setA n v = { s.setA n v with dac := d } := by
  unfold State.setA
  split
  · rfl
  · exact s.setSp_dacOf v d

theorem memRead_setA (s : State) (n : Reg) (v a : Word) (sz : Size) :
    memRead (s.setA n v) a sz = ((memRead s a sz).1, (memRead s a sz).2.setA n v) := by
  rw [memRead_of_devices (s.setA_ram n v) (s.setA_psg n v) (s.setA_mfp n v) (s.setA_dac n v), ← State.setA_dacOf,
    ← memRead_keeps]

theorem memRead_setSp (s : State) (v a : Word) (sz : Size) :
    memRead (s.setSp v) a sz = ((memRead s a sz).1, (memRead s a sz).2.setSp v) := by
  simpa only [State.setA_seven] using memRead_setA s 7 v a sz

theorem memRead_setD (s : State) (n : Reg) (v a : Word) (sz : Size) :
    memRead (s.setD n v) a sz = ((memRead s a sz).1, (memRead s a sz).2.setD n v) := by
  rw [memRead_of_devices (s.setD_ram n v) (s.setD_psg n v) (s.setD_mfp n v) (s.setD_dac n v)]
  conv_rhs => rw [memRead_keeps]
  rfl

theorem memRead_setReg16 (s : State) (i : Fin 16) (v a : Word) (sz : Size) :
    memRead (s.setReg16 i v) a sz = ((memRead s a sz).1, (memRead s a sz).2.setReg16 i v) := by
  unfold State.setReg16
  split
  · exact memRead_setD s _ v a sz
  · exact memRead_setA s _ v a sz

theorem reg16_congr {s t : State} (hd : ∀ n, t.dreg n = s.dreg n) (ha : ∀ n, t.areg n = s.areg n) :
    t.reg16 = s.reg16 := by
  funext i
  simp only [State.reg16, hd, ha]

/-- What only reads leaves every register. -/
theorem Path.reg16_eq {s t : State} (p : Path readsOnly s t) : t.reg16 = s.reg16 :=
  reg16_congr (fun _ => p.dreg nofun) fun _ => p.areg_any nofun

theorem after1_dreg (s : State) (n : Reg) : (after1 s).dreg n = s.dreg n := Path.dreg (w := readsOnly) Path.fetch nofun

theorem after1_reg16 (s : State) : (after1 s).reg16 = s.reg16 := Path.reg16_eq Path.fetch

/-- Resolving a control mode reads only. -/
theorem resolve_control_path {e : Ea} (he : e.isControl = true) {sz : Size} {s t : State} {l : Loc}
    (h : resolve e sz s = .ok l t) : Path readsOnly s t :=
  (resolve_follows sz fun n hn => by rw [steps_control he] at hn; cases hn).ok l t h

theorem memWrite_sp {s t : State} {a : Word} {sz : Size} {v : Word} (h : memWrite s a sz v = .ok t) : t.sp = s.sp := by
  rw [memWrite_frame h]
  rfl

theorem memWrite_reg16 {s t : State} {a : Word} {sz : Size} {v : Word} (h : memWrite s a sz v = .ok t) :
    t.reg16 = s.reg16 := by
  rw [memWrite_frame h]
  rfl

theorem run_resolveAddress {e : Ea} {sz : Size} {s t : State} {a : Word} (h : resolve e sz s = .ok (.mem a) t) :
    resolveAddress e sz s = .ok a t := run_bind_ok h

/-! ## Accesses one after the other -/

theorem storeAll_cons {sz : Size} {a v : Word} {l : List (Word × Word)} {s t : State}
    (h : storeAll sz ((a, v) :: l) s = .ok t) : ∃ u, memWrite s a sz v = .ok u ∧ storeAll sz l u = .ok t := by
  rw [storeAll] at h
  split at h
  · rename_i u hu
    exact ⟨u, hu, h⟩
  · cases h

/-- The address of access `j + 1` from the address after the first. -/
theorem add_ofNat_succ (a : Word) (w j : Nat) :
    a + BitVec.ofNat 32 (w * (j + 1)) = a + BitVec.ofNat 32 w + BitVec.ofNat 32 (w * j) := by
  rw [Nat.mul_succ, Nat.add_comm, BitVec.ofNat_add, BitVec.add_assoc]

theorem sub_ofNat_succ (a : Word) (w j : Nat) :
    a - BitVec.ofNat 32 (w * (j + 1)) = a - BitVec.ofNat 32 w - BitVec.ofNat 32 (w * j) := by
  rw [Nat.mul_succ, Nat.add_comm, BitVec.ofNat_add, BitVec.sub_sub]

theorem add_ofNat_zero (a : Word) (w : Nat) : a + BitVec.ofNat 32 (w * 0) = a := by simp

/-- Register changes do not show on the bus. -/
theorem readAll_setReg16 (sz : Size) (l : List Word) (s : State) (i : Fin 16) (v : Word) :
    readAll sz l (s.setReg16 i v) = ((readAll sz l s).1, (readAll sz l s).2.setReg16 i v) := by
  induction l generalizing s with
  | nil => rfl
  | cons a l ih => simp only [readAll, memRead_setReg16, ih]

/-! ## `MOVEM` (40 R173 to R175) -/

/-- The `-(An)` stores, and the address after them. -/
theorem run_storeDown {sz : Size} {α : Type} (f : α → Word) (l : List α) (a : Word) {s t : State}
    (h : storeAll sz (l.mapIdx fun j i => (a - BitVec.ofNat 32 (byteCount sz * (j + 1)), trunc sz (f i))) s = .ok t) :
    storeDown sz (l.map f) a s = .ok (a - BitVec.ofNat 32 (byteCount sz * l.length)) t := by
  induction l generalizing a s with
  | nil =>
    cases h
    simp [storeDown]
  | cons i l ih =>
    simp only [List.mapIdx_cons, sub_ofNat_succ a] at h
    obtain ⟨u, hu, h⟩ := storeAll_cons h
    rw [Nat.mul_zero, BitVec.sub_zero] at hu
    rw [List.map_cons, storeDown, run_bind_ok (run_writeMem_ok hu), ih _ h, List.length_cons, sub_ofNat_succ]

/-- The upward stores: what a store writes is no register. -/
theorem run_storeUp {sz : Size} (l : List (Fin 16)) (a : Word) {f : Fin 16 → Word} {s t : State} (hf : s.reg16 = f)
    (h : storeAll sz (l.mapIdx fun j i => (a + BitVec.ofNat 32 (byteCount sz * j), trunc sz (f i))) s = .ok t) :
    storeUp sz l a s = .ok () t := by
  induction l generalizing a s with
  | nil =>
    cases h
    rfl
  | cons i l ih =>
    simp only [List.mapIdx_cons, add_ofNat_succ, add_ofNat_zero] at h
    obtain ⟨u, hu, h⟩ := storeAll_cons h
    rw [storeUp, run_bind_ok (run_look _ _), hf, run_bind_ok (run_writeMem_ok hu)]
    exact ih _ ((memWrite_reg16 hu).trans hf) h

/-- The loads, and the address after them: the values can all be read before the first register is written. -/
theorem run_loadUp {sz : Size} (hsz : sz ≠ .b) (l : List (Fin 16)) (a : Word) (s : State) :
    let q := readAll sz (l.mapIdx fun j _ => a + BitVec.ofNat 32 (byteCount sz * j)) s
    loadUp sz l a s = .ok (a + BitVec.ofNat 32 (byteCount sz * l.length)) (loadRegisters sz (l.zip q.1) q.2) := by
  induction l generalizing a s with
  | nil => simp [loadUp, loadRegisters, readAll]
  | cons i l ih =>
    have hx : sextAddr sz (memRead s a sz).1 = BitVec.ofInt 32 (signedOf sz (memRead s a sz).1) :=
      sextAddr_eq hsz (memRead_lt s a sz)
    simp only [List.mapIdx_cons, add_ofNat_succ, add_ofNat_zero, readAll, List.zip_cons_cons, loadRegisters,
      List.length_cons]
    rw [loadUp, run_bind_ok (run_readMem _ _ _), run_bind_ok (run_change _ _), ih, hx, readAll_setReg16]

/-- The registers of the reversed mask of `-(An)`, in the order of its bits (40 R173). -/
theorem map_reversed_maskBits (m : Half) : (maskBits m).map reversed = (listDown m).reverse := by
  have h : (List.ofFn fun i : Fin 16 => i) = List.finRange 16 := List.ofFn_id 16
  have hp : (fun i : Fin 16 => m.getLsbD i.val) = (fun i : Fin 16 => m.getLsbD (15 - i.val)) ∘ Fin.rev := by
    funext i
    simp only [Function.comp, Fin.val_rev]
    congr 1
    omega
  rw [maskBits, h, listDown, ← List.filter_reverse, List.finRange_reverse, List.filter_map, ← hp]
  rfl

theorem isPredec_eq_false {e : Ea} (h : ∀ r, e ≠ .predec r) : e.isPredec = false := by
  cases e with
  | predec r => exact absurd rfl (h r)
  | _ => rfl

theorem isPostinc_eq_false {e : Ea} (h : ∀ r, e ≠ .postinc r) : e.isPostinc = false := by
  cases e with
  | postinc r => exact absurd rfl (h r)
  | _ => rfl

theorem exec_movemToMem_predec {long : Bool} {r : Reg} {s t : State}
    (h : storeAll (movemSize long) ((listDown (word1 s)).reverse.mapIdx fun j i =>
      (s.areg r - BitVec.ofNat 32 (byteCount (movemSize long) * (j + 1)), trunc (movemSize long) (s.reg16 i)))
        (after1 s) = .ok t) :
    exec (.movemToMem long (.predec r)) s = .next (t.setA r
      (s.areg r - BitVec.ofNat 32 (byteCount (movemSize long) * (listDown (word1 s)).reverse.length))) := by
  have hl : (maskBits (word1 s)).map (fun i => (after1 s).reg16 (reversed i)) =
      (listDown (word1 s)).reverse.map s.reg16 := by
    rw [← map_reversed_maskBits, List.map_map, after1_reg16]
    rfl
  have hd : storeDown (movemSize long) ((maskBits (word1 s)).map fun i => (after1 s).reg16 (reversed i))
      ((after1 s).areg r) (after1 s) = .ok
        (s.areg r - BitVec.ofNat 32 (byteCount (movemSize long) * (listDown (word1 s)).reverse.length)) t := by
    rw [hl, after1_areg]
    exact run_storeDown s.reg16 _ _ h
  refine finish_ok (m := fetch16 >>= _) ((run_bind_ok (run_fetch16 s)).trans ?_)
  exact (run_bind_ok (run_look _ _)).trans ((run_bind_ok (run_look _ _)).trans (run_bind_ok hd))

theorem exec_movemToMem_of_ok {long : Bool} {e : Ea} {a : Word} {s s1 t : State} (hwf : (Instr.movemToMem long e).wf = true)
    (hp : e.isPredec = false) (hr : resolve e (movemSize long) (after1 s) = .ok (.mem a) s1)
    (h : storeAll (movemSize long) ((listUp (word1 s)).mapIdx fun j i =>
      (a + BitVec.ofNat 32 (byteCount (movemSize long) * j), trunc (movemSize long) (s.reg16 i))) s1 = .ok t) :
    exec (.movemToMem long e) s = .next t := by
  have hc : e.isControl = true := by
    have : e.isMovemStore = true := hwf
    simp only [Ea.isMovemStore, Ea.isControlAlterable, hp, Bool.or_false, Bool.and_eq_true] at this
    exact this.1
  have hf : s1.reg16 = s.reg16 := (resolve_control_path hc hr).reg16_eq.trans (after1_reg16 s)
  rw [exec_movemToMem_up long hp]
  exact finish_ok ((run_bind_ok (run_fetch16 s)).trans
    ((run_bind_ok (run_resolveAddress hr)).trans (run_storeUp _ a hf h)))

/-- Settles O31: the two stores by `run_storeDown` and `run_storeUp`, the two loads by `run_loadUp`. -/
theorem movemResults : Obligations.MovemResults := by
  unfold Obligations.MovemResults
  intro s long
  refine ⟨fun r t h => exec_movemToMem_predec h,
    fun e a s1 t hwf he hr h => exec_movemToMem_of_ok hwf (isPredec_eq_false he) hr h, fun r => ?_,
    fun e a s1 _ he hr => ?_⟩
  · have hl := run_loadUp (movemSize_ne_b long) (listUp (word1 s)) (s.areg r) (after1 s)
    rw [← after1_areg] at hl ⊢
    exact finish_ok (m := fetch16 >>= _) ((run_bind_ok (run_fetch16 s)).trans
      ((run_bind_ok (run_look _ _)).trans (run_bind_ok hl)))
  · rw [exec_movemToRegs_plain long (isPostinc_eq_false he)]
    exact finish_ok ((run_bind_ok (run_fetch16 s)).trans ((run_bind_ok (run_resolveAddress hr)).trans
      (run_bind_ok (run_loadUp (movemSize_ne_b long) _ a s1))))

/-! ## `MOVEP` (40 R176) -/

theorem spread_succ (a : Word) (w k : Nat) : spread a w (k + 1) = a :: spread (a + BitVec.ofNat 32 w) w k := by
  simp only [spread, List.range_succ_eq_map, List.map_cons, List.map_map, add_ofNat_zero]
  congr 2
  funext j
  exact add_ofNat_succ a w j

theorem run_movepStore (l : List Byte) (a : Word) {s t : State}
    (h : storeAll .b ((spread a 2 l.length).zip (l.map fun b => b.setWidth 32)) s = .ok t) :
    movepStore l a s = .ok () t := by
  induction l generalizing a s with
  | nil =>
    cases h
    rfl
  | cons b l ih =>
    rw [List.length_cons, spread_succ, List.map_cons, List.zip_cons_cons] at h
    obtain ⟨u, hu, h⟩ := storeAll_cons h
    rw [movepStore, run_bind_ok (run_writeMem_ok hu)]
    exact ih _ h

theorem bytesFrom_byteCount (sz : Size) (v : Word) :
    bytesFrom v (byteCount sz) = (List.range (byteCount sz)).map fun k => (byteOf sz v k).setWidth 32 := by
  refine List.map_congr_left fun k _ => BitVec.eq_of_toNat_eq ?_
  simp [byteOf_toNat]

/-- The bytes that `MOVEP` stores, the most significant first. -/
theorem map_movepBytes (long : Bool) (v : Word) :
    (movepBytes long v).map (fun b => b.setWidth 32) = bytesFrom v (if long then 4 else 2) := by
  cases long with
  | true => exact (bytesFrom_byteCount .l v).symm
  | false => exact (bytesFrom_byteCount .w v).symm

/-- A byte shifted in from the right is the next digit in base 256. -/
theorem ofNat_shiftLeft_or_byte (acc : Nat) {b : Word} (h : b.toNat < 256) :
    BitVec.ofNat 32 acc <<< 8 ||| b = BitVec.ofNat 32 (acc * 256 + b.toNat) := by
  apply BitVec.eq_of_toNat_eq
  have e : acc % 2 ^ 32 * 2 ^ 8 % 2 ^ 32 = acc % 2 ^ 24 * 2 ^ 8 := by omega
  rw [BitVec.toNat_or, BitVec.toNat_shiftLeft, BitVec.toNat_ofNat, Nat.shiftLeft_eq, e, or_byte _ _ h, BitVec.toNat_ofNat]
  omega

/-- The loads of `MOVEP`, `acc` being what was read before. -/
theorem run_movepLoad (k acc : Nat) (a : Word) (s : State) :
    movepLoad k (BitVec.ofNat 32 acc) a s = .ok
      (BitVec.ofNat 32 ((readAll .b (spread a 2 k) s).1.foldl (fun acc b => acc * 256 + b.toNat) acc))
      (readAll .b (spread a 2 k) s).2 := by
  induction k generalizing acc a s with
  | zero => rfl
  | succ k ih =>
    rw [movepLoad, run_bind_ok (run_readMem _ _ _), ofNat_shiftLeft_or_byte acc (memRead_lt s a .b), spread_succ]
    exact ih _ _ _

/-- Settles O32: `run_movepStore` and `run_movepLoad` from the displacement plus `An`. -/
theorem movepResults : Obligations.MovepResults := by
  unfold Obligations.MovepResults
  intro s x y long
  refine ⟨fun t h => ?_, ?_⟩
  · rw [← map_movepBytes, ← length_movepBytes long (s.dreg x), ← after1_dreg] at h
    exact finish_ok (m := look _ >>= _) ((run_bind_ok (run_look _ s)).trans ((run_bind_ok (run_fetch16 s)).trans
      ((run_bind_ok (run_look _ _)).trans (run_movepStore _ _ h))))
  · exact finish_ok (m := look _ >>= _) ((run_bind_ok (run_look _ s)).trans ((run_bind_ok (run_fetch16 s)).trans
      (run_bind_ok (run_movepLoad _ 0 _ _))))

/-! ## `LEA`, `PEA`, `LINK`, `UNLK` (40 R177 to R181) -/

theorem State.setSp_setSp (s : State) (v v' : Word) : (s.setSp v).setSp v' = s.setSp v' := by
  rcases hs : s.sr.s <;> rcases hm : s.sr.m <;> simp [State.setSp, hs, hm]

theorem State.setSp_drawsOf (s : State) (v : Word) (k : Nat) :
    ({ s with draws := k } : State).setSp v = { s.setSp v with draws := k } := by
  unfold State.setSp
  split <;> [(split <;> rfl); rfl]

/-- An address register that takes the value of the stack pointer leaves it, `A7` included. -/
theorem State.sp_setA_sp (s : State) (n : Reg) : (s.setA n s.sp).sp = s.sp := by
  by_cases h : n = 7
  · rw [h, State.setA_seven, State.sp_setSp]
  · exact s.areg_setA_other s.sp h

theorem memRead_draws (s : State) (a : Word) (sz : Size) : (memRead s a sz).2.draws = s.draws := by
  rw [memRead_keeps]

/-- A push of a long word that the bus takes. -/
theorem run_push_ok {s t : State} {v : Word} (h : memWrite (s.setSp (s.sp - 4)) (s.sp - 4) .l v = .ok t) :
    push .l v s = .ok () t := (run_push .l v s).trans (run_writeMem_ok h)

theorem exec_lea {n : Reg} {src : Ea} {s s1 : State} {a : Word} (h : resolve src .l s = .ok (.mem a) s1) :
    exec (.lea n src) s = .next (s1.setA n a) :=
  finish_ok (m := resolveAddress src .l >>= _) (run_bind_ok (run_resolveAddress h))

theorem exec_pea {src : Ea} {s s1 t : State} {a : Word} (hc : src.isControl = true)
    (hr : resolve src .l s = .ok (.mem a) s1) (h : memWrite (s1.setSp (s.sp - 4)) (s.sp - 4) .l a = .ok t) :
    exec (.pea src) s = .next t := by
  have ha := run_resolveAddress hr
  rw [← resolveAddress_sp hc ha] at h
  exact finish_ok (m := resolveAddress src .l >>= _) ((run_bind_ok ha).trans (run_push_ok h))

/-- `LINK` once the value to push is known (40 R180). -/
theorem run_link_push (n : Reg) {d v : Word} {s t : State}
    (h : memWrite (s.setSp (s.sp - 4)) (s.sp - 4) .l v = .ok t) :
    (push .l v >>= fun _ => look State.sp >>= fun sp => change (fun s => s.setA n sp) >>= fun _ =>
      change fun s => s.setSp (s.sp + d)) s = .ok () ((t.setA n (s.sp - 4)).setSp (s.sp - 4 + d)) := by
  have hsp : t.sp = s.sp - 4 := (memWrite_sp h).trans (State.sp_setSp _ _)
  rw [run_bind_ok (run_push_ok h), run_bind_ok (run_look _ _), run_bind_ok (run_change _ _), run_change,
    State.sp_setA_sp, hsp]

theorem exec_link {n : Reg} (hn : n ≠ 7) {s t : State}
    (h : memWrite ((after1 s).setSp (s.sp - 4)) (s.sp - 4) .l (s.areg n) = .ok t) :
    exec (.link n) s = .next ((t.setA n (s.sp - 4)).setSp (s.sp - 4 + BitVec.ofInt 32 (word1 s).toInt)) := by
  have hsp : (after1 s).sp = s.sp := after1_areg s 7
  rw [← hsp, ← after1_areg] at h
  rw [← hsp]
  refine finish_ok (m := fetch16 >>= _) ((run_bind_ok (run_fetch16 s)).trans ?_)
  rw [if_neg (Nat.ne_of_lt (reg_lt_of_ne hn))]
  exact (run_bind_ok (run_look _ _)).trans (run_link_push n h)

/-- `LINK A7` pushes a free value (93 U9). -/
theorem exec_link_seven {s t : State} (h : memWrite { (after1 s).setSp (s.sp - 4) with draws := s.draws + 1 }
      (s.sp - 4) .l (Config.freeWord s.draws) = .ok t) :
    exec (.link 7) s = .next (t.setSp (s.sp - 4 + BitVec.ofInt 32 (word1 s).toInt)) := by
  have hsp : (after1 s).sp = s.sp := after1_areg s 7
  have hdr : (after1 s).draws = s.draws := memRead_draws s s.pc .w
  rw [← State.setSp_drawsOf, ← hsp, ← hdr] at h
  rw [← t.setSp_setSp (s.sp - 4), ← t.setA_seven, ← hsp]
  refine finish_ok (m := fetch16 >>= _) ((run_bind_ok (run_fetch16 s)).trans ?_)
  rw [if_pos (show (7 : Reg).val = 7 from rfl)]
  exact (run_bind_ok (run_drawWord _)).trans (run_link_push 7 h)

/-- A pop from a stack pointer just set. -/
theorem run_pop_setSp (s : State) (a : Word) :
    pop .l (s.setSp a) = .ok (memRead s a .l).1 ((memRead s a .l).2.setSp (a + 4)) := by
  rw [run_pop, State.sp_setSp, memRead_setSp, State.sp_setSp, State.setSp_setSp]
  rfl

theorem exec_unlk {n : Reg} (hn : n ≠ 7) (s : State) :
    exec (.unlk n) s = .next (((memRead s (s.areg n) .l).2.setSp (s.areg n + 4)).setA n (memRead s (s.areg n) .l).1) := by
  refine finish_ok (m := look _ >>= _) ((run_bind_ok (run_look _ s)).trans ?_)
  refine (run_bind_ok (run_change _ s)).trans ((run_bind_ok (run_pop_setSp s _)).trans ?_)
  rw [if_neg (Nat.ne_of_lt (reg_lt_of_ne hn)), run_change]

/-- `UNLK A7` leaves a free value in the stack pointer (93 U9). -/
theorem exec_unlk_seven {n : Reg} (hn : n.val = 7) (s : State) : exec (.unlk n) s =
    .next { (memRead s (s.areg n) .l).2.setSp (Config.freeWord s.draws) with draws := s.draws + 1 } := by
  have hdr : ((memRead s (s.areg n) .l).2.setSp (s.areg n + 4)).draws = s.draws :=
    (State.setSp_draws _ _).trans (memRead_draws s _ .l)
  refine finish_ok (m := look _ >>= _) ((run_bind_ok (run_look _ s)).trans ?_)
  refine (run_bind_ok (run_change _ s)).trans ((run_bind_ok (run_pop_setSp s _)).trans ?_)
  rw [if_pos hn, run_bind_ok (run_drawWord _), run_change, hdr, State.setSp_drawsOf, State.setSp_setSp]

/-- Settles O33: one equation per instruction; the free values of `A7` are the model's own draws. -/
theorem addressAndStackMoves : Obligations.AddressAndStackMoves := by
  unfold Obligations.AddressAndStackMoves
  exact ⟨fun s s1 n src a _ hr => exec_lea hr, fun s s1 t src a hwf hr h => exec_pea hwf hr h,
    fun s x y => ⟨rfl, rfl, rfl⟩, fun s t n hn h => exec_link hn h,
    fun s => ⟨Config.freeWord s.draws, fun t h => exec_link_seven h⟩, fun s n hn => exec_unlk hn s,
    fun s => ⟨Config.freeWord s.draws, exec_unlk_seven (n := 7) rfl s⟩⟩
end
end Sys2Proof.Machine

namespace Sys2Proof.Machine

/-! # Integer arithmetic

First the model's sums, differences and flags as the spec's arithmetic, then each shape of instruction as one run, then the
statements of 41 R200 to R230. -/

section
open Claims

/-! ## Results and flags (00_scope R10, R15) -/

theorem ofInt_toNat (v : Word) : BitVec.ofInt 32 v.toNat = v := by
  rw [BitVec.ofInt_natCast, BitVec.ofNat_toNat, BitVec.setWidth_eq]

theorem ofInt_bitNat (x : Bool) : BitVec.ofInt 32 (bitNat x) = bitWord x := by cases x <;> rfl

theorem ofInt_sub (a b : Int) : BitVec.ofInt 32 (a - b) = BitVec.ofInt 32 a - BitVec.ofInt 32 b := by
  rw [Int.sub_eq_add_neg, BitVec.ofInt_add, BitVec.ofInt_neg, ← BitVec.sub_eq_add_neg]

/-- An integer modulo `2^bits(sz)` is the low part of the integer as a long word. -/
theorem ofValue_eq (sz : Size) (t : Int) : ofValue sz t = trunc sz (BitVec.ofInt 32 t) := by
  apply BitVec.eq_of_toNat_eq
  rw [trunc_toNat, ofValue, BitVec.toNat_ofNat, BitVec.toNat_ofInt]
  cases sz <;> simp only [span, bitCount] <;> omega

theorem sumOf_eq (sz : Size) (s d : Word) (x : Bool) : sumOf sz s d x = sumValue sz s d x := by
  rw [sumValue, ofValue_eq, BitVec.ofInt_add, BitVec.ofInt_add, ofInt_toNat, ofInt_toNat, ofInt_bitNat, sumOf]

theorem diffOf_eq (sz : Size) (s d : Word) (x : Bool) : diffOf sz s d x = differenceValue sz s d x := by
  rw [differenceValue, ofValue_eq, ofInt_sub, ofInt_sub, ofInt_toNat, ofInt_toNat, ofInt_bitNat, diffOf]

theorem isZero_eq {sz : Size} {r : Word} (h : r.toNat < span sz) : isZero sz r = decide (r = 0) := by
  rw [isZero, trunc_of_lt h]
  rfl

theorem ofValue_toNat (sz : Size) (t : Int) : ((ofValue sz t).toNat : Int) = t % span sz := by
  rw [ofValue, BitVec.toNat_ofNat]
  cases sz <;> simp only [span, bitCount] <;> omega

theorem ofValue_lt (sz : Size) (t : Int) : (ofValue sz t).toNat < span sz := by
  rw [ofValue_eq]
  exact trunc_lt sz _

theorem sumValue_lt (sz : Size) (s d : Word) (x : Bool) : (sumValue sz s d x).toNat < span sz := ofValue_lt sz _

theorem differenceValue_lt (sz : Size) (s d : Word) (x : Bool) : (differenceValue sz s d x).toNat < span sz :=
  ofValue_lt sz _

theorem span_even (sz : Size) : span sz % 2 = 0 := by cases sz <;> rfl

section
variable {sz : Size} {s d : Word}

/-- A sum wraps around at most once. -/
theorem sumValue_cases (x : Bool) (hs : s.toNat < span sz) (hd : d.toNat < span sz) :
    (s.toNat + d.toNat + bitNat x < span sz ∧ (sumValue sz s d x).toNat = s.toNat + d.toNat + bitNat x) ∨
      (span sz ≤ s.toNat + d.toNat + bitNat x ∧ (sumValue sz s d x).toNat + span sz = s.toNat + d.toNat + bitNat x) := by
  have hr := ofValue_toNat sz (s.toNat + d.toNat + bitNat x)
  have hx := bitNat_le_one x
  rw [sumValue]
  cases sz <;> simp only [span, bitCount] at * <;> omega

/-- A difference wraps around at most once. -/
theorem differenceValue_cases (x : Bool) (hs : s.toNat < span sz) (hd : d.toNat < span sz) :
    (s.toNat + bitNat x ≤ d.toNat ∧ (differenceValue sz s d x).toNat + s.toNat + bitNat x = d.toNat) ∨
      (d.toNat < s.toNat + bitNat x ∧ (differenceValue sz s d x).toNat + s.toNat + bitNat x = d.toNat + span sz) := by
  have hr := ofValue_toNat sz ((d.toNat : Int) - s.toNat - bitNat x)
  have hx := bitNat_le_one x
  rw [differenceValue]
  cases sz <;> simp only [span, bitCount] at * <;> omega

theorem addOverflow_eq (x : Bool) (hs : s.toNat < span sz) (hd : d.toNat < span sz) :
    addOverflow sz s d (sumValue sz s d x) = !inRange sz (signedOf sz s + signedOf sz d + bitNat x) := by
  rw [addOverflow, msbOf_eq_negative hs, msbOf_eq_negative hd, msbOf_eq_negative (sumValue_lt sz s d x), Bool.eq_iff_iff]
  simp only [negative, inRange, Bool.and_eq_true, beq_iff_eq, bne_iff_ne, ne_eq, decide_eq_decide, Bool.not_eq_true',
    decide_eq_false_iff_not]
  have hr := sumValue_cases x hs hd
  have hx := bitNat_le_one x
  have hs' := signedOf_cases sz s
  have hd' := signedOf_cases sz d
  have h2 := span_even sz
  omega

theorem subOverflow_eq (x : Bool) (hs : s.toNat < span sz) (hd : d.toNat < span sz) :
    subOverflow sz s d (differenceValue sz s d x) = !inRange sz (signedOf sz d - signedOf sz s - bitNat x) := by
  rw [subOverflow, msbOf_eq_negative hs, msbOf_eq_negative hd, msbOf_eq_negative (differenceValue_lt sz s d x), Bool.eq_iff_iff]
  simp only [negative, inRange, Bool.and_eq_true, bne_iff_ne, ne_eq, decide_eq_decide, Bool.not_eq_true',
    decide_eq_false_iff_not]
  have hr := differenceValue_cases x hs hd
  have hx := bitNat_le_one x
  have hs' := signedOf_cases sz s
  have hd' := signedOf_cases sz d
  have h2 := span_even sz
  omega

theorem addFlags_eq (x : Bool) (f : Status) (hs : s.toNat < span sz) (hd : d.toNat < span sz) :
    f.addFlags sz s d x (sumOf sz s d x) = { sumStatus sz s d x f with x := f.x, z := f.z } := by
  rw [sumOf_eq, Status.addFlags, addOverflow_eq x hs hd, msbOf_eq_negative (sumValue_lt sz s d x)]
  rfl

theorem subFlags_eq (x : Bool) (f : Status) (hs : s.toNat < span sz) (hd : d.toNat < span sz) :
    f.subFlags sz s d x (diffOf sz s d x) = { differenceStatus sz s d x f with x := f.x, z := f.z } := by
  rw [diffOf_eq, Status.subFlags, subOverflow_eq x hs hd, msbOf_eq_negative (differenceValue_lt sz s d x)]
  rfl

theorem isZero_sumOf (x : Bool) : isZero sz (sumOf sz s d x) = decide (sumValue sz s d x = 0) := by
  rw [sumOf_eq, isZero_eq (sumValue_lt sz s d x)]

theorem isZero_diffOf (x : Bool) : isZero sz (diffOf sz s d x) = decide (differenceValue sz s d x = 0) := by
  rw [diffOf_eq, isZero_eq (differenceValue_lt sz s d x)]

theorem flagsAdd_eq (f : Status) (hs : s.toNat < span sz) (hd : d.toNat < span sz) :
    flagsAdd sz s d f = sumStatus sz s d false f := by
  rw [flagsAdd, addFlags_eq false f hs hd, Status.zero, isZero_sumOf]
  rfl

theorem flagsAddx_eq (f : Status) (hs : s.toNat < span sz) (hd : d.toNat < span sz) :
    flagsAddx sz s d f = sticky f (sumStatus sz s d f.x f) := by
  rw [flagsAddx, addFlags_eq f.x f hs hd, Status.zeroSticky, isZero_sumOf]
  rfl

theorem flagsSub_eq (f : Status) (hs : s.toNat < span sz) (hd : d.toNat < span sz) :
    flagsSub sz s d f = differenceStatus sz s d false f := by
  rw [flagsSub, subFlags_eq false f hs hd, Status.zero, isZero_diffOf]
  rfl

theorem flagsSubx_eq (f : Status) (hs : s.toNat < span sz) (hd : d.toNat < span sz) :
    flagsSubx sz s d f = sticky f (differenceStatus sz s d f.x f) := by
  rw [flagsSubx, subFlags_eq f.x f hs hd, Status.zeroSticky, isZero_diffOf]
  rfl

theorem flagsCmp_eq (f : Status) (hs : s.toNat < span sz) (hd : d.toNat < span sz) :
    flagsCmp sz s d f = compareStatus sz s d f := by
  rw [flagsCmp, subFlags_eq false f hs hd, Status.zero, isZero_diffOf]
  rfl
end
end
end Sys2Proof.Machine

namespace Sys2Proof.Machine
section
open Claims

/-! ## Operands and the status word -/

section
variable {s t : State} {e : Ea} {sz : Size} {v : Word} {l : Loc}

theorem Consults.sr (h : Consults s t) : t.sr = s.sr := by
  obtain ⟨_, _, _, _, _, _, _, _, rfl⟩ := h
  rfl

theorem Consults.dreg (h : Consults s t) (n : Reg) : t.dreg n = s.dreg n := by
  obtain ⟨_, _, _, _, _, _, _, _, rfl⟩ := h
  rfl

theorem resolve_consults (h : resolve e sz s = .ok l t) : Consults s t := (moves_resolve e sz).ok h

theorem readEa_consults (h : readEa e sz s = .ok v t) : Consults s t := (moves_readEa e sz).ok h

theorem fetchImm_consults (h : fetchImm sz s = .ok v t) : Consults s t := (moves_fetchImm sz).ok h

theorem fetchImm_lt (h : fetchImm sz s = .ok v t) : v.toNat < span sz := by
  obtain ⟨_, _, h', hv⟩ := fetchImm_ok sz s
  rw [h'] at h
  cases h
  exact hv

theorem writeLoc_sr (h : writeLoc l sz v s = .ok () t) : t.sr = s.sr :=
  Path.sr_anywhere ((writeLoc_follows v (anywhere_permits sz l)).ok () t h)
end

/-! ## Shapes of instructions -/

/-- On operands of their size, the model's result and flags are those of the rules. -/
structure Computes (sz : Size) (op : Word → Word → Word) (g : Word → Word → Status → Status) (res : Word → Word → Word)
    (st : Word → Word → Status → Status) : Prop where
  value : ∀ s d, s.toNat < span sz → d.toNat < span sz → op s d = res s d
  flags : ∀ s d f, s.toNat < span sz → d.toNat < span sz → g s d f = st s d f

theorem add_computes (sz : Size) : Computes sz (fun s d => sumOf sz s d false) (flagsAdd sz)
    (fun s d => sumValue sz s d false) (fun s d => sumStatus sz s d false) :=
  ⟨fun s d _ _ => sumOf_eq sz s d false, fun _ _ f hs hd => flagsAdd_eq f hs hd⟩

theorem sub_computes (sz : Size) : Computes sz (fun s d => diffOf sz s d false) (flagsSub sz)
    (fun s d => differenceValue sz s d false) (fun s d => differenceStatus sz s d false) :=
  ⟨fun s d _ _ => diffOf_eq sz s d false, fun _ _ f hs hd => flagsSub_eq f hs hd⟩

theorem addx_computes (sz : Size) (x : Bool) : Computes sz (fun s d => sumOf sz s d x) (flagsAddx sz)
    (fun s d => sumValue sz s d x) (fun s d f => sticky f (sumStatus sz s d f.x f)) :=
  ⟨fun s d _ _ => sumOf_eq sz s d x, fun _ _ f hs hd => flagsAddx_eq f hs hd⟩

theorem subx_computes (sz : Size) (x : Bool) : Computes sz (fun s d => diffOf sz s d x) (flagsSubx sz)
    (fun s d => differenceValue sz s d x) (fun s d f => sticky f (differenceStatus sz s d f.x f)) :=
  ⟨fun s d _ _ => diffOf_eq sz s d x, fun _ _ f hs hd => flagsSubx_eq f hs hd⟩

section
variable {i : Instr} {sz : Size} {s s1 : State} {loc : Loc} {res : Word → Word} {st : Word → Status → Status}

/-- An instruction whose operands only consult the state, and that ends in one write and the flags. -/
theorem changes_of {m : M Unit} {g : Status → Status} (he : exec i s = finish m s)
    (hm : m s = (writeLoc loc sz (res (readLocFrom s1 loc sz).1) >>= fun _ => setFlags g) (readLocFrom s1 loc sz).2)
    (hc : Consults s (readLocFrom s1 loc sz).2) (hg : g s.sr = st (readLocFrom s1 loc sz).1 s.sr) :
    Changes i sz s s1 loc res st := by
  intro s2 hw
  rw [he]
  apply finish_ok
  rw [hm, run_bind_ok hw, run_setFlags, writeLoc_sr hw, hc.sr, hg]

/-- Reading through a locator just resolved. -/
theorem Consults.read (h : Consults s s1) : Consults s (Machine.readLocFrom s1 loc sz).2 :=
  Consults.composes.trans _ _ _ h (Consults.readLocFrom s1 loc sz)

theorem unaryEa_changes {dst : Ea} {op : Status → Word → Word} {g : Word → Status → Status}
    (he : exec i s = finish (unaryEa sz dst op g) s) (hr : resolve dst sz s = .ok loc s1)
    (hv : ∀ d, d.toNat < span sz → op s.sr d = res d) (hg : ∀ d f, d.toNat < span sz → g d f = st d f) :
    Changes i sz s s1 loc res st := by
  have hd := readLocFrom_lt (resolve_isOf hr) s1
  have hc := (resolve_consults hr).read (loc := loc) (sz := sz)
  refine changes_of he ?_ hc (hg _ _ hd)
  rw [unaryEa, run_bind_ok hr, run_bind_ok (run_readLoc _ _ _), run_bind_ok (run_look _ _), hc.sr, hv _ hd]
end

section
variable {op : Size → Word → Word → Word} {g : Size → Word → Word → Status → Status} {res : Size → Word → Word → Word}
  {st : Size → Word → Word → Status → Status}

theorem eaToRegister_of {i : Reg → Size → Ea → Instr} (h : ∀ sz, Computes sz (op sz) (g sz) (res sz) (st sz))
    (he : ∀ n sz src s, exec (i n sz src) s = finish (eaToDn n sz src (op sz) (g sz)) s) : EaToRegister i res st := by
  intro s s1 n sz src v _ hr
  have hv := readEa_lt hr
  have hd := trunc_lt sz (s.dreg n)
  have hc := readEa_consults hr
  rw [he]
  apply finish_ok
  rw [eaToDn, run_bind_ok hr, run_bind_ok (run_look _ _), run_bind_ok (run_change _ _), run_setFlags, State.writeD_sr,
    hc.dreg, hc.sr, (h sz).value _ _ hv hd, (h sz).flags _ _ _ hv hd]

theorem registerToEa_of {i : Reg → Size → Ea → Instr} (h : ∀ sz, Computes sz (op sz) (g sz) (res sz) (st sz))
    (he : ∀ n sz dst s, exec (i n sz dst) s = finish (dnToEa n sz dst (op sz) (g sz)) s) : RegisterToEa i res st := by
  intro s s1 n sz dst loc _ hr
  have hs := trunc_lt sz (s.dreg n)
  have hd := readLocFrom_lt (resolve_isOf hr) s1
  have hc := (resolve_consults hr).read (loc := loc) (sz := sz)
  refine changes_of (he n sz dst s) ?_ hc ((h sz).flags _ _ _ hs hd)
  rw [dnToEa, run_bind_ok hr, run_bind_ok (run_readLoc _ _ _), run_bind_ok (run_look _ _), hc.dreg,
    (h sz).value _ _ hs hd]

theorem immediateToEa_of {i : Size → Ea → Instr} (h : ∀ sz, Computes sz (op sz) (g sz) (res sz) (st sz))
    (he : ∀ sz dst s, exec (i sz dst) s = finish (immToEa sz dst (op sz) (g sz)) s) : ImmediateToEa i res st := by
  intro s s0 s1 sz dst v loc _ hf hr
  have hv := fetchImm_lt hf
  have hd := readLocFrom_lt (resolve_isOf hr) s1
  have hc := (Consults.composes.trans _ _ _ (fetchImm_consults hf) (resolve_consults hr)).read (loc := loc) (sz := sz)
  refine changes_of (he sz dst s) ?_ hc ((h sz).flags _ _ _ hv hd)
  rw [immToEa, run_bind_ok hf, run_bind_ok hr, run_bind_ok (run_readLoc _ _ _), (h sz).value _ _ hv hd]
end

/-- The data of `ADDQ` and `SUBQ` has every size (30_encoding R145). -/
theorem quickData_lt (q : Reg) (sz : Size) : (BitVec.ofNat 32 (quickData q)).toNat < span sz := by
  have hq := q.isLt
  rw [BitVec.toNat_ofNat, quickData]
  cases sz <;> simp only [span, bitCount] <;> split <;> omega

section
variable {i : Instr} {sz : Size} {s : State} {res : Word → Word → Word} {st : Word → Word → Status → Status}

theorem quickOp_changes {q : Reg} {dst : Ea} {op addr : Word → Word → Word} {g : Word → Word → Status → Status}
    {s1 : State} {loc : Loc} (h : Computes sz op g res st) (he : exec i s = finish (quickOp q sz dst op addr g) s)
    (ha : dst.isAn = false) (hr : resolve dst sz s = .ok loc s1) :
    Changes i sz s s1 loc (res (BitVec.ofNat 32 (quickData q))) (st (BitVec.ofNat 32 (quickData q))) := by
  rw [quickOp_eq ha] at he
  exact unaryEa_changes he hr (fun d hd => h.value _ d (quickData_lt q sz) hd)
    (fun d f hd => h.flags _ d f (quickData_lt q sz) hd)

section
variable {x y : Reg} {op : Word → Word → Bool → Word} {g : Word → Word → Status → Status}

theorem extendedOp_regs (h : Computes sz (fun v d => op v d s.sr.x) g res st)
    (he : exec i s = finish (extendedOp x sz .regs y op g) s) :
    exec i s = .next ((s.writeD x sz (res (trunc sz (s.dreg y)) (trunc sz (s.dreg x)))).setSr
      (st (trunc sz (s.dreg y)) (trunc sz (s.dreg x)) s.sr)) := by
  have hv := trunc_lt sz (s.dreg y)
  have hd := trunc_lt sz (s.dreg x)
  rw [← h.value _ _ hv hd, ← h.flags _ _ _ hv hd, he]
  rfl

theorem run_pairOperands_predec {s1 s2 : State} {v : Word} {loc : Loc} (hv : readEa (.predec y) sz s = .ok v s1)
    (hr : resolve (.predec x) sz s1 = .ok loc s2) : pairOperands sz x .predec y s =
      .ok (v, loc, (readLocFrom s2 loc sz).1) (readLocFrom s2 loc sz).2 :=
  (run_bind_ok hv).trans ((run_bind_ok hr).trans (run_bind_ok (run_readLoc loc sz s2)))

theorem extendedOp_predec (h : Computes sz (fun v d => op v d s.sr.x) g res st)
    (he : exec i s = finish (extendedOp x sz .predec y op g) s) {s1 s2 : State} {v : Word} {loc : Loc}
    (hr : readEa (.predec y) sz s = .ok v s1) (hl : resolve (.predec x) sz s1 = .ok loc s2) :
    Changes i sz s s2 loc (res v) (st v) := by
  have hv := readEa_lt hr
  have hd := readLocFrom_lt (resolve_isOf hl) s2
  have hc := (Consults.composes.trans _ _ _ (readEa_consults hr) (resolve_consults hl)).read (loc := loc) (sz := sz)
  refine changes_of he ?_ hc (h.flags _ _ _ hv hd)
  rw [extendedOp, run_bind_ok (run_pairOperands_predec hr hl), run_bind_ok (run_look _ _), hc.sr, ← h.value _ _ hv hd]
end
end

/-! ## Addition and subtraction (41 R200 to R205, R210 to R215, R224, R225) -/

theorem exec_addq (q : Reg) (sz : Size) (dst : Ea) (s : State) : exec (.addq q sz dst) s =
    finish (quickOp q sz dst (fun s d => sumOf sz s d false) (fun k a => a + k) (flagsAdd sz)) s := rfl

theorem exec_subq (q : Reg) (sz : Size) (dst : Ea) (s : State) : exec (.subq q sz dst) s =
    finish (quickOp q sz dst (fun s d => diffOf sz s d false) (fun k a => a - k) (flagsSub sz)) s := rfl

theorem exec_addx (x : Reg) (sz : Size) (m : PairMode) (y : Reg) (s : State) : exec (.addx x sz m y) s =
    finish (extendedOp x sz m y (sumOf sz) (flagsAddx sz)) s := rfl

theorem exec_subx (x : Reg) (sz : Size) (m : PairMode) (y : Reg) (s : State) : exec (.subx x sz m y) s =
    finish (extendedOp x sz m y (diffOf sz) (flagsSubx sz)) s := rfl

theorem exec_neg (sz : Size) (dst : Ea) (s : State) : exec (.neg sz dst) s =
    finish (unaryEa sz dst (fun _ d => diffOf sz d 0 false) (fun d => flagsSub sz d 0)) s := rfl

theorem exec_negx (sz : Size) (dst : Ea) (s : State) : exec (.negx sz dst) s =
    finish (unaryEa sz dst (fun f d => diffOf sz d 0 f.x) (fun d => flagsSubx sz d 0)) s := rfl

theorem zero_lt_span (sz : Size) : (0 : Word).toNat < span sz := Nat.two_pow_pos _

/-- Settles O34: the sum in every form. -/
theorem addResults : Obligations.AddResults := by
  unfold Obligations.AddResults
  refine ⟨eaToRegister_of add_computes fun _ _ _ _ => rfl, registerToEa_of add_computes fun _ _ _ _ => rfl,
    immediateToEa_of add_computes fun _ _ _ => rfl, fun s s1 q sz dst loc _ ha hr => ?quick⟩
  exact (quickOp_changes (add_computes sz) (exec_addq q sz dst s) ha hr :)

/-- Settles O35: the difference in every form, `NEG` being the difference of 0 and the operand. -/
theorem subtractResults : Obligations.SubtractResults := by
  unfold Obligations.SubtractResults
  refine ⟨eaToRegister_of sub_computes fun _ _ _ _ => rfl, registerToEa_of sub_computes fun _ _ _ _ => rfl,
    immediateToEa_of sub_computes fun _ _ _ => rfl, fun s s1 q sz dst loc _ ha hr => ?quick,
    fun s s1 sz dst loc _ hr => ?neg⟩
  case quick => exact (quickOp_changes (sub_computes sz) (exec_subq q sz dst s) ha hr :)
  case neg =>
    exact unaryEa_changes (exec_neg sz dst s) hr (fun d hd => (sub_computes sz).value d 0 hd (zero_lt_span sz))
      (fun d f hd => (sub_computes sz).flags d 0 f hd (zero_lt_span sz))

/-- Settles O36: the sum and the difference with the old `X`. -/
theorem extendedResults : Obligations.ExtendedResults := by
  unfold Obligations.ExtendedResults
  refine ⟨fun s x y sz => ?pair, fun s s1 sz dst loc _ hr => ?negx⟩
  case pair =>
    have ha := addx_computes sz s.sr.x
    have hs := subx_computes sz s.sr.x
    exact ⟨⟨(extendedOp_regs ha (exec_addx x sz .regs y s) :), (extendedOp_regs hs (exec_subx x sz .regs y s) :)⟩,
      fun s1 s2 v loc hr hl => ⟨(extendedOp_predec ha (exec_addx x sz .predec y s) hr hl :),
        (extendedOp_predec hs (exec_subx x sz .predec y s) hr hl :)⟩⟩
  case negx =>
    have h := subx_computes sz s.sr.x
    exact unaryEa_changes (exec_negx sz dst s) hr (fun d hd => h.value d 0 hd (zero_lt_span sz))
      (fun d f hd => h.flags d 0 f hd (zero_lt_span sz))

end
end Sys2Proof.Machine

namespace Sys2Proof.Machine
section
open Claims

/-! ## Address registers (41 R202, R204, R212, R214) -/

theorem ofInt_toNat_add (a : Word) (t : Int) : BitVec.ofInt 32 (a.toNat + t) = a + BitVec.ofInt 32 t := by
  rw [BitVec.ofInt_add, ofInt_toNat]

theorem ofInt_toNat_sub (a : Word) (t : Int) : BitVec.ofInt 32 (a.toNat - t) = a - BitVec.ofInt 32 t := by
  rw [ofInt_sub, ofInt_toNat]

theorem ofInt_quickData (q : Reg) :
    BitVec.ofInt 32 (if q.val = 0 then 8 else (q.val : Int)) = BitVec.ofNat 32 (quickData q) := by
  unfold quickData
  split
  · rfl
  · exact BitVec.ofInt_natCast 32 q.val

theorem run_addressOp {sz : Size} (hsz : sz ≠ .b) {n : Reg} {src : Ea} {op : Word → Word → Word} {s s1 : State} {v : Word}
    (hr : readEa src sz s = .ok v s1) :
    addressOp sz n src op s = .ok () (s1.setA n (op (BitVec.ofInt 32 (signedOf sz v)) (s1.areg n))) := by
  rw [addressOp, run_bind_ok hr, run_change, sextAddr_eq hsz (readEa_lt hr)]

theorem exec_adda (n : Reg) (src : Ea) (s : State) :
    ∀ p ∈ [(Instr.addaW, Size.w), (Instr.addaL, Size.l)],
      p.2 ≠ .b ∧ exec (p.1 n src) s = finish (addressOp p.2 n src (fun v a => a + v)) s := by
  simp only [List.forall_mem_cons]
  exact ⟨⟨nofun, rfl⟩, ⟨nofun, rfl⟩, nofun⟩

theorem exec_suba (n : Reg) (src : Ea) (s : State) :
    ∀ p ∈ [(Instr.subaW, Size.w), (Instr.subaL, Size.l)],
      p.2 ≠ .b ∧ exec (p.1 n src) s = finish (addressOp p.2 n src (fun v a => a - v)) s := by
  simp only [List.forall_mem_cons]
  exact ⟨⟨nofun, rfl⟩, ⟨nofun, rfl⟩, nofun⟩

theorem exec_addq_an (q n : Reg) (sz : Size) (s : State) :
    exec (.addq q sz (.an n)) s = .next (s.setA n (s.areg n + BitVec.ofNat 32 (quickData q))) := rfl

theorem exec_subq_an (q n : Reg) (sz : Size) (s : State) :
    exec (.subq q sz (.an n)) s = .next (s.setA n (s.areg n - BitVec.ofNat 32 (quickData q))) := rfl

/-- Settles O37: the model's long-word sums and differences as those of the integers. -/
theorem addressArithmetic : Obligations.AddressArithmetic := by
  unfold Obligations.AddressArithmetic
  refine ⟨fun p hp s s1 n src v hr => ?add, fun p hp s s1 n src v hr => ?sub, fun s q n sz _ => ⟨?addq, ?subq⟩⟩
  case add =>
    obtain ⟨hsz, he⟩ := exec_adda n src s p hp
    rw [he, ofInt_toNat_add]
    exact finish_ok (run_addressOp hsz hr)
  case sub =>
    obtain ⟨hsz, he⟩ := exec_suba n src s p hp
    rw [he, ofInt_toNat_sub]
    exact finish_ok (run_addressOp hsz hr)
  case addq => rw [ofInt_toNat_add, ofInt_quickData, exec_addq_an]
  case subq => rw [ofInt_toNat_sub, ofInt_quickData, exec_subq_an]

/-! ## Comparisons (41 R217 to R220) -/

theorem run_compareAddress {sz : Size} (hsz : sz ≠ .b) {n : Reg} {src : Ea} {s s1 : State} {v : Word}
    (hr : readEa src sz s = .ok v s1) : compareAddress sz n src s =
      .ok () (s1.setSr (compareStatus .l (BitVec.ofInt 32 (signedOf sz v)) (s1.areg n) s.sr)) := by
  rw [compareAddress, run_bind_ok hr, run_bind_ok (run_look _ _), run_setFlags, sextAddr_eq hsz (readEa_lt hr),
    flagsCmp_eq (sz := .l) _ (BitVec.isLt _) (BitVec.isLt _), (readEa_consults hr).sr]

theorem exec_cmpa (n : Reg) (src : Ea) (s : State) :
    ∀ p ∈ [(Instr.cmpaW, Size.w), (Instr.cmpaL, Size.l)],
      p.2 ≠ .b ∧ exec (p.1 n src) s = finish (compareAddress p.2 n src) s := by
  simp only [List.forall_mem_cons]
  exact ⟨⟨nofun, rfl⟩, ⟨nofun, rfl⟩, nofun⟩

/-- The two values compared, once both are read. -/
theorem run_compare {sz : Size} {s t : State} {v d : Word} (hc : Consults s t) (hv : v.toNat < span sz)
    (hd : d.toNat < span sz) : setFlags (flagsCmp sz v d) t = .ok () (t.setSr (compareStatus sz v d s.sr)) := by
  rw [run_setFlags, flagsCmp_eq _ hv hd, hc.sr]

section
variable {s s0 s1 : State} {sz : Size} {v d : Word}

theorem exec_cmp {n : Reg} {src : Ea} (hr : readEa src sz s = .ok v s1) :
    exec (.cmp n sz src) s = .next (s1.setSr (compareStatus sz v (trunc sz (s.dreg n)) s.sr)) := by
  have hc := readEa_consults hr
  rw [← hc.dreg]
  exact finish_ok (m := readEa src sz >>= _) ((run_bind_ok hr).trans ((run_bind_ok (run_look _ s1)).trans
    (run_compare hc (readEa_lt hr) (trunc_lt sz _))))

theorem exec_cmpi {dst : Ea} (hf : fetchImm sz s = .ok v s0) (hr : readEa dst sz s0 = .ok d s1) :
    exec (.cmpi sz dst) s = .next (s1.setSr (compareStatus sz v d s.sr)) :=
  finish_ok (m := fetchImm sz >>= _) ((run_bind_ok hf).trans ((run_bind_ok hr).trans (run_compare
    (Consults.composes.trans _ _ _ (fetchImm_consults hf) (readEa_consults hr)) (fetchImm_lt hf) (readEa_lt hr))))

theorem exec_cmpm {x y : Reg} (hv : readEa (.postinc y) sz s = .ok v s0) (hd : readEa (.postinc x) sz s0 = .ok d s1) :
    exec (.cmpm x sz y) s = .next (s1.setSr (compareStatus sz v d s.sr)) := by
  have hc := Consults.composes.trans _ _ _ (readEa_consults hv) (readEa_consults hd)
  show finish (readEa (.postinc y) sz >>= fun v => readEa (.postinc x) sz >>= fun d => setFlags (flagsCmp sz v d)) s = _
  exact finish_ok ((run_bind_ok hv).trans ((run_bind_ok hd).trans (run_compare hc (readEa_lt hv) (readEa_lt hd))))
end

/-- Settles O38: the flags of the difference after each form's reads. -/
theorem compareResults : Obligations.CompareResults := by
  unfold Obligations.CompareResults
  refine ⟨fun s s1 n sz src v _ hr => exec_cmp hr, fun p hp s s1 n src v hr => ?cmpa,
    fun s s0 s1 sz dst v d _ hf hr => exec_cmpi hf hr, fun s s0 s1 x y sz v d hv hd => exec_cmpm hv hd⟩
  obtain ⟨hsz, he⟩ := exec_cmpa n src s p hp
  rw [he]
  exact finish_ok (run_compareAddress hsz hr)

end
end Sys2Proof.Machine

namespace Sys2Proof.Machine
section
open Claims

/-! ## `CLR`, `EXT`, `SWAP`, `Scc`, `TST`, `TAS` (41 R223, R226, 43 R268, 46 R305, R312, 47 R345) -/

theorem signed8_eq (v : Word) : (v.setWidth 8).toInt = signedOf .b (trunc .b v) := by
  rw [BitVec.toInt_eq_toNat_cond, signedOf, trunc_toNat, BitVec.toNat_setWidth]
  rfl

theorem signed16_eq (v : Word) : signed16 v = signedOf .w (trunc .w v) := by
  rw [signed16, BitVec.toInt_eq_toNat_cond, signedOf, trunc_toNat, BitVec.toNat_setWidth]
  rfl

theorem signed32_eq (v : Word) : signed32 v = signedOf .l v := BitVec.toInt_eq_toNat_cond v

theorem ofValue_signed8 (v : Word) : ofValue .w (signedOf .b (trunc .b v)) = trunc .w (sext8 v) := by
  rw [ofValue_eq, ← signed8_eq, sext8, signExtend_eq_ofInt]

theorem ofValue_signed16 (v : Word) : ofValue .l (signedOf .w (trunc .w v)) = sext16 v := by
  rw [ofValue_eq, ← signed16_eq, sext16, signExtend_eq_ofInt]
  rfl

theorem swap_halves (v : Word) : v.extractLsb' 0 16 ++ v.extractLsb' 16 16 =
    BitVec.ofNat 32 (v.toNat % 0x10000 * 0x10000 + v.toNat / 0x10000) := by
  have hv : v.toNat / 0x10000 < 0x10000 := by omega
  apply BitVec.eq_of_toNat_eq
  simp only [append_toNat, BitVec.extractLsb'_toNat, BitVec.toNat_ofNat, Nat.shiftRight_eq_div_pow,
    Nat.reducePow, Nat.div_one]
  rw [Nat.mod_eq_of_lt hv]
  exact (Nat.mod_eq_of_lt (by omega)).symm

/-- Bit 7 of a byte set, in naturals. -/
theorem or_128 {k : Nat} (h : k < 256) : k ||| 128 = 128 + k % 128 := by
  have hm : 128 ||| k % 128 = 128 + k % 128 :=
    (Nat.two_pow_add_eq_or_of_lt (i := 7) (Nat.mod_lt k (by decide)) 1).symm
  rw [← hm, Nat.or_comm]
  by_cases hk : k < 128
  · rw [Nat.mod_eq_of_lt hk]
  · have hk' : 128 ||| k % 128 = k := by omega
    rw [← hk', ← Nat.or_assoc, Nat.or_self, hk', hk']

theorem or_bit7 {v : Word} (h : v.toNat < 256) : v ||| 0x80 = BitVec.ofNat 32 (128 + v.toNat % 128) := by
  apply BitVec.eq_of_toNat_eq
  rw [BitVec.toNat_or, BitVec.toNat_ofNat, Nat.mod_eq_of_lt (by omega)]
  exact or_128 h

section
variable {s s1 s2 : State} {sz : Size} {dst : Ea} {loc : Loc}

theorem exec_clr (hr : resolve dst sz s = .ok loc s1) (hw : writeLoc loc sz 0 s1 = .ok () s2) :
    exec (.clr sz dst) s = .next (s2.setSr { s.sr with n := false, z := true, v := false, c := false }) := by
  rw [← (resolve_consults hr).sr, ← writeLoc_sr hw]
  exact finish_ok (m := resolve dst sz >>= _) ((run_bind_ok hr).trans (run_bind_ok hw))

theorem exec_scc {c : Cond} (hr : resolve dst .b s = .ok loc s1)
    (hw : writeLoc loc .b (if s.sr.holds c then 0xFF else 0) s1 = .ok () s2) : exec (.scc c dst) s = .next s2 := by
  rw [← (resolve_consults hr).sr] at hw
  exact finish_ok (m := resolve dst .b >>= _) ((run_bind_ok hr).trans ((run_bind_ok (run_look _ _)).trans hw))

theorem exec_tst {d : Word} (hr : readEa dst sz s = .ok d s1) :
    exec (.tst sz dst) s = .next (s1.setSr (logicStatus sz d s.sr)) := by
  rw [← (readEa_consults hr).sr, ← Status.logic_eq (readEa_lt hr)]
  exact finish_ok (m := readEa dst sz >>= _) (run_bind_ok hr)

/-- The flags are those of the byte before bit 7 is set (47 R345). -/
theorem exec_tas (hr : resolve dst .b s = .ok loc s1)
    (hw : writeLoc loc .b (BitVec.ofNat 32 (128 + (readLocFrom s1 loc .b).1.toNat % 128))
      ((readLocFrom s1 loc .b).2.setSr (logicStatus .b (readLocFrom s1 loc .b).1 s.sr)) = .ok () s2) :
    exec (.tas dst) s = .next s2 := by
  have hd := readLocFrom_lt (resolve_isOf hr) s1
  rw [← or_bit7 hd, ← Status.logic_eq hd, ← ((resolve_consults hr).read (loc := loc) (sz := .b)).sr] at hw
  exact finish_ok (m := resolve dst .b >>= _) ((run_bind_ok hr).trans ((run_bind_ok (run_readLoc _ _ _)).trans
    ((run_bind_ok (run_setFlags _ _)).trans hw)))
end

theorem exec_extW (n : Reg) (s : State) : exec (.extW n) s =
    .next ((s.writeD n .w (trunc .w (sext8 (s.dreg n)))).setSr (s.sr.logic .w (trunc .w (sext8 (s.dreg n))))) := rfl

theorem exec_extL (n : Reg) (s : State) : exec (.extL n) s =
    .next ((s.setD n (sext16 (s.dreg n))).setSr (s.sr.logic .l (sext16 (s.dreg n)))) := rfl

theorem exec_swap (n : Reg) (s : State) : exec (.swap n) s =
    .next ((s.setD n ((s.dreg n).extractLsb' 0 16 ++ (s.dreg n).extractLsb' 16 16)).setSr
      (s.sr.logic .l ((s.dreg n).extractLsb' 0 16 ++ (s.dreg n).extractLsb' 16 16))) := rfl

/-- Settles O40: one equation per instruction, and the register forms' values as integers. -/
theorem clearExtendAndTest : Obligations.ClearExtendAndTest := by
  unfold Obligations.ClearExtendAndTest
  refine ⟨fun s s1 s2 sz dst loc _ hr hw => exec_clr hr hw, fun s n => ⟨?extW, ?extL, ?swap⟩,
    fun s s1 s2 c dst loc _ hr hw => exec_scc hr hw, fun s s1 sz dst d _ hr => exec_tst hr,
    fun s s1 s2 dst loc _ hr hw => exec_tas hr hw⟩
  case extW => rw [exec_extW, ofValue_signed8, Status.logic_eq (trunc_lt .w _)]
  case extL => rw [exec_extL, ofValue_signed16, Status.logic_eq (sz := .l) (BitVec.isLt _)]
  case swap => rw [exec_swap, swap_halves, Status.logic_eq (sz := .l) (BitVec.isLt _)]

/-! ## `MULU`, `MULS` (41 R227, R228) -/

theorem trunc_word_eq_ofNat (v : Word) : trunc .w v = BitVec.ofNat 32 (v.toNat % 0x10000) := by
  have hv := trunc_toNat .w v
  apply BitVec.eq_of_toNat_eq
  rw [hv, BitVec.toNat_ofNat, span, bitCount]
  omega

section
variable {s s1 : State} {n : Reg} {src : Ea} {v : Word}

theorem run_setD_logic (n : Reg) (r : Word) (t : State) :
    (change (fun st => st.setD n r) >>= fun _ => setFlags fun f => f.logic .l r) t =
      .ok () ((t.setD n r).setSr (logicStatus .l r t.sr)) := by
  rw [run_bind_ok (run_change _ t), run_setFlags, State.setD_sr, Status.logic_eq (sz := .l) r.isLt]

theorem exec_mulu (hr : readEa src .w s = .ok v s1) : exec (.mulu n src) s =
    .next ((s1.setD n (v * trunc .w (s.dreg n))).setSr (logicStatus .l (v * trunc .w (s.dreg n)) s.sr)) := by
  have hc := readEa_consults hr
  have hv := trunc_of_lt (readEa_lt hr)
  refine finish_ok (m := readEa src .w >>= _) ((run_bind_ok hr).trans ((run_bind_ok (run_look _ _)).trans ?_))
  rw [run_setD_logic, hv, hc.dreg, hc.sr]

theorem exec_muls (hr : readEa src .w s = .ok v s1) : exec (.muls n src) s =
    .next ((s1.setD n (BitVec.ofInt 32 (signed16 v * signed16 (s.dreg n)))).setSr
      (logicStatus .l (BitVec.ofInt 32 (signed16 v * signed16 (s.dreg n))) s.sr)) := by
  have hc := readEa_consults hr
  refine finish_ok (m := readEa src .w >>= _) ((run_bind_ok hr).trans ((run_bind_ok (run_look _ _)).trans ?_))
  rw [run_setD_logic, hc.dreg, hc.sr]

/-! ## `DIVU`, `DIVS` (41 R229, R230) -/

theorem run_divideResult (n : Reg) (q rem : Half) (t : State) : divideResult n q rem t =
    .ok () ((t.setD n (rem ++ q)).setSr { t.sr with n := q.getLsbD 15, z := q == 0, v := false, c := false }) := rfl

/-- `N` and `Z` are the next two free values (93 U3). -/
theorem run_divideOverflow (t : State) : divideOverflow t =
    .ok () ({ t with draws := t.draws + 2 }.setSr
      { t.sr with n := Config.freeBit t.draws, z := Config.freeBit (t.draws + 1), v := true, c := false }) := rfl

/-- Remainder and quotient as the two words of one long word. -/
theorem append_ofNat {q : Nat} (rem : Nat) (hq : q < 0x10000) :
    BitVec.ofNat 16 rem ++ BitVec.ofNat 16 q = BitVec.ofNat 32 (rem * 0x10000 + q) := by
  apply BitVec.eq_of_toNat_eq
  rw [append_toNat, BitVec.toNat_ofNat, BitVec.toNat_ofNat, BitVec.toNat_ofNat]
  omega

theorem append_ofInt (q rem : Int) :
    BitVec.ofInt 16 rem ++ BitVec.ofInt 16 q = BitVec.ofInt 32 (rem * 0x10000 + q % 0x10000) := by
  apply BitVec.eq_of_toNat_eq
  rw [append_toNat, BitVec.toNat_ofInt, BitVec.toNat_ofInt, BitVec.toNat_ofInt]
  omega

theorem ofNat_getLsbD_15 {q : Nat} (hq : q < 0x10000) : (BitVec.ofNat 16 q).getLsbD 15 = decide (0x8000 ≤ q) := by
  rw [← BitVec.msb_eq_getLsbD_last (BitVec.ofNat 16 q), BitVec.msb_eq_decide, BitVec.toNat_ofNat, Nat.mod_eq_of_lt hq]

theorem ofNat_beq_zero {q : Nat} (hq : q < 0x10000) : (BitVec.ofNat 16 q == 0) = decide (q = 0) := by
  show decide (BitVec.ofNat 16 q = 0) = decide (q = 0)
  rw [decide_eq_decide, ← BitVec.toNat_inj, BitVec.toNat_ofNat, Nat.mod_eq_of_lt hq]
  rfl

theorem ofInt_getLsbD_15 {q : Int} (hq : -0x8000 ≤ q ∧ q < 0x8000) : (BitVec.ofInt 16 q).getLsbD 15 = decide (q < 0) := by
  rw [← BitVec.msb_eq_getLsbD_last (BitVec.ofInt 16 q), BitVec.msb_eq_toInt,
    BitVec.toInt_ofInt_eq_self (by decide) hq.1 hq.2]

theorem ofInt_beq_zero {q : Int} (hq : -0x8000 ≤ q ∧ q < 0x8000) : (BitVec.ofInt 16 q == 0) = decide (q = 0) := by
  show decide (BitVec.ofInt 16 q = 0) = decide (q = 0)
  rw [decide_eq_decide, ← BitVec.toInt_inj, BitVec.toInt_ofInt_eq_self (by decide) hq.1 hq.2]
  rfl

/-- The quotient rounded toward zero is the one whose remainder is smaller than the divisor and has the dividend's sign. -/
theorem tdiv_eq_of_remainder {d v q rem : Int} (hq : d = q * v + rem) (hrem : rem.natAbs < v.natAbs)
    (hsign : rem = 0 ∨ (0 < rem ↔ 0 < d)) : d.tdiv v = q := by
  have hv : v ≠ 0 := by omega
  have hd : rem + v * q = d := by rw [hq, Int.mul_comm, Int.add_comm]
  have hzero : d = 0 → rem = 0 := fun h0 =>
    Int.eq_zero_of_dvd_of_natAbs_lt_natAbs ⟨-q, by rw [Int.mul_neg]; omega⟩ hrem
  rcases Int.le_total 0 d with h | h
  · exact ((Int.tdiv_tmod_unique h hv).mpr ⟨hd, by omega, by omega⟩).1
  · exact ((Int.tdiv_tmod_unique' h hv).mpr ⟨hd, by omega, by omega⟩).1

/-- A division by a word that is not 0: the quotient fits, or it does not. -/
theorem exec_divu (hr : readEa src .w s = .ok v s1) {q rem : Nat} (hq : (s.dreg n).toNat = q * v.toNat + rem)
    (hrem : rem < v.toNat) {t : State} (ht : (if 0xFFFF < q then divideOverflow
      else divideResult n (BitVec.ofNat 16 q) (BitVec.ofNat 16 rem)) s1 = .ok () t) : exec (.divu n src) s = .next t := by
  have hv := trunc_of_lt (readEa_lt hr)
  have hd := (readEa_consults hr).dreg n
  obtain ⟨hdiv, hmod⟩ := (Nat.div_mod_unique (Nat.zero_lt_of_lt hrem)).mpr
    ⟨(by rw [hq, Nat.mul_comm, Nat.add_comm] : rem + v.toNat * q = (s.dreg n).toNat), hrem⟩
  refine finish_ok (m := readEa src .w >>= _) ((run_bind_ok hr).trans ((run_bind_ok (run_look _ _)).trans ?_))
  rw [hv, hd, if_neg (Nat.ne_zero_of_lt hrem), hdiv, hmod, ht]

theorem exec_divs (hr : readEa src .w s = .ok v s1) {q rem : Int}
    (hq : signedOf .l (s.dreg n) = q * signedOf .w v + rem) (hrem : rem.natAbs < (signedOf .w v).natAbs)
    (hsign : rem = 0 ∨ (0 < rem ↔ 0 < signedOf .l (s.dreg n))) {t : State}
    (ht : (if q < -32768 ∨ 32767 < q then divideOverflow
      else divideResult n (BitVec.ofInt 16 q) (BitVec.ofInt 16 rem)) s1 = .ok () t) : exec (.divs n src) s = .next t := by
  have hv : signed16 v = signedOf .w v := by rw [signed16_eq, trunc_of_lt (readEa_lt hr)]
  have hd := (readEa_consults hr).dreg n
  have hdiv := tdiv_eq_of_remainder hq hrem hsign
  have hmod : signedOf .l (s.dreg n) - q * signedOf .w v = rem := by omega
  have h0 : signedOf .w v ≠ 0 := by omega
  refine finish_ok (m := readEa src .w >>= _) ((run_bind_ok hr).trans ((run_bind_ok (run_look _ _)).trans ?_))
  rw [hv, hd, signed32_eq, if_neg h0, hdiv, hmod, ht]
end

/-- Settles O41: one equation per product, and the quotient and remainder by their uniqueness. -/
theorem multiplyAndDivide : Obligations.MultiplyAndDivide := by
  unfold Obligations.MultiplyAndDivide
  intro s s1 n src v _ hr
  have hsr := (readEa_consults hr).sr
  have hs16 : signed16 v = signedOf .w v := by rw [signed16_eq, trunc_of_lt (readEa_lt hr)]
  refine ⟨?mulu, ?muls, fun q rem hq hrem => ⟨fun h => ?divu, fun h => ?divuLarge⟩,
    fun q rem hq hrem hsign => ⟨fun h => ?divs, fun h => ?divsLarge⟩⟩
  case mulu =>
    rw [exec_mulu hr, trunc_word_eq_ofNat, BitVec.ofNat_mul, BitVec.ofNat_toNat, BitVec.setWidth_eq]
  case muls => rw [exec_muls hr, signed16_eq (s.dreg n), hs16]
  case divu =>
    refine exec_divu hr hq hrem ?_
    rw [if_neg (by omega), run_divideResult, append_ofNat rem h, ofNat_getLsbD_15 h, ofNat_beq_zero h, hsr]
  case divuLarge =>
    refine ⟨Config.freeBit s1.draws, Config.freeBit (s1.draws + 1), exec_divu hr hq hrem ?_⟩
    rw [if_pos (by omega), run_divideOverflow, hsr]
  case divs =>
    refine exec_divs hr hq hrem hsign ?_
    rw [if_neg (by omega), run_divideResult, append_ofInt, ofInt_getLsbD_15 h, ofInt_beq_zero h, hsr]
  case divsLarge =>
    refine ⟨Config.freeBit s1.draws, Config.freeBit (s1.draws + 1), exec_divs hr hq hrem hsign ?_⟩
    rw [if_pos (by omega), run_divideOverflow, hsr]

end
end Sys2Proof.Machine

namespace Sys2Proof.Machine

/-! # Logic

The bitwise instructions have the shapes of the arithmetic ones: what is proved for `Computes` serves them too. On the
status word an operation acts on each bit by itself. -/

section
open Claims

/-! ## `AND`, `OR`, `EOR`, `NOT` (42 R240 to R242, R244 to R246, R249, R250, R252) -/

section
variable {sz : Size} {s d : Word}

theorem and_lt_span (s : Word) (hd : d.toNat < span sz) : (s &&& d).toNat < span sz :=
  Nat.and_lt_two_pow s.toNat hd

theorem or_lt_span (hs : s.toNat < span sz) (hd : d.toNat < span sz) : (s ||| d).toNat < span sz :=
  Nat.or_lt_two_pow hs hd

theorem xor_lt_span (hs : s.toNat < span sz) (hd : d.toNat < span sz) : (s ^^^ d).toNat < span sz :=
  Nat.xor_lt_two_pow hs hd

theorem complement_lt_span (sz : Size) (d : Word) : (BitVec.ofNat 32 (span sz - 1 - d.toNat)).toNat < span sz := by
  rw [BitVec.toNat_ofNat]
  cases sz <;> simp only [span, bitCount] <;> omega

/-- The complement of all bits of a size is the distance from the greatest value. -/
theorem trunc_not (hd : d.toNat < span sz) : trunc sz (~~~ d) = BitVec.ofNat 32 (span sz - 1 - d.toNat) := by
  apply BitVec.eq_of_toNat_eq
  rw [trunc_toNat, BitVec.toNat_not, BitVec.toNat_ofNat]
  cases sz <;> simp only [span, bitCount] at * <;> omega
end

/-- A result that keeps the size of its operands, with `LOGIC` of it. -/
theorem logic_computes {sz : Size} {op res : Word → Word → Word} (h : ∀ s d, op s d = res s d)
    (hlt : ∀ s d, s.toNat < span sz → d.toNat < span sz → (res s d).toNat < span sz) :
    Computes sz op (fun s d => flagsLogic sz (op s d)) res (fun s d => logicStatus sz (res s d)) where
  value s d _ _ := h s d
  flags s d f hs hd := by rw [flagsLogic, h, Status.logic_eq (hlt s d hs hd)]

theorem and_computes {op : Word → Word → Word} (h : ∀ s d, op s d = s &&& d) (sz : Size) : Computes sz op
    (fun s d => flagsLogic sz (op s d)) (fun s d => s &&& d) (fun s d => logicStatus sz (s &&& d)) :=
  logic_computes h fun s _ _ hd => and_lt_span s hd

theorem or_computes {op : Word → Word → Word} (h : ∀ s d, op s d = s ||| d) (sz : Size) : Computes sz op
    (fun s d => flagsLogic sz (op s d)) (fun s d => s ||| d) (fun s d => logicStatus sz (s ||| d)) :=
  logic_computes h fun _ _ hs hd => or_lt_span hs hd

theorem xor_computes {op : Word → Word → Word} (h : ∀ s d, op s d = s ^^^ d) (sz : Size) : Computes sz op
    (fun s d => flagsLogic sz (op s d)) (fun s d => s ^^^ d) (fun s d => logicStatus sz (s ^^^ d)) :=
  logic_computes h fun _ _ hs hd => xor_lt_span hs hd

theorem exec_notOp (sz : Size) (dst : Ea) (s : State) : exec (.notOp sz dst) s =
    finish (unaryEa sz dst (fun _ d => trunc sz (~~~ d)) (fun d => flagsLogic sz (trunc sz (~~~ d)))) s := rfl

/-- Settles O42: each operation keeps the size of its operands; the forms that write `<ea>` have them the other way round. -/
theorem logicResults : Obligations.LogicResults := by
  unfold Obligations.LogicResults
  have and_swapped := and_computes fun s d => BitVec.and_comm d s
  have or_swapped := or_computes fun s d => BitVec.or_comm d s
  have xor_swapped := xor_computes fun s d => BitVec.xor_comm d s
  refine ⟨eaToRegister_of (and_computes fun _ _ => rfl) fun _ _ _ _ => rfl,
    eaToRegister_of (or_computes fun _ _ => rfl) fun _ _ _ _ => rfl,
    registerToEa_of and_swapped fun _ _ _ _ => rfl, registerToEa_of or_swapped fun _ _ _ _ => rfl,
    registerToEa_of xor_swapped fun _ _ _ _ => rfl, immediateToEa_of and_swapped fun _ _ _ => rfl,
    immediateToEa_of or_swapped fun _ _ _ => rfl, immediateToEa_of xor_swapped fun _ _ _ => rfl,
    fun s s1 sz dst loc _ hr => ?not⟩
  refine unaryEa_changes (exec_notOp sz dst s) hr (fun d hd => trunc_not hd) fun d f hd => ?_
  rw [flagsLogic, trunc_not hd, Status.logic_eq (complement_lt_span sz d)]

/-! ## The status word (42 R243, R247, R251, 47 R330 to R332, R336 to R338) -/

/-- An operation on 16 bits that acts on each bit by itself, as `b`. -/
def ActsBitwise (op : Half → Half → Half) (b : Bool → Bool → Bool) : Prop :=
  ∀ v w j, j < 16 → (op v w).getLsbD j = b (v.getLsbD j) (w.getLsbD j)

theorem and_actsBitwise : ActsBitwise (fun v w => v &&& w) and := fun _ _ _ _ => BitVec.getLsbD_and
theorem or_actsBitwise : ActsBitwise (fun v w => v ||| w) or := fun _ _ _ _ => BitVec.getLsbD_or
theorem xor_actsBitwise : ActsBitwise (fun v w => v ^^^ w) xor := fun _ _ _ _ => BitVec.getLsbD_xor

section
variable {op : Half → Half → Half} {b : Bool → Bool → Bool}

theorem ActsBitwise.withCcr (h : ActsBitwise op b) (f : Status) (w : Half) : f.withCcr (op f.toWord w) =
    { f with x := b f.x (w.getLsbD 4), n := b f.n (w.getLsbD 3), z := b f.z (w.getLsbD 2), v := b f.v (w.getLsbD 1),
             c := b f.c (w.getLsbD 0) } := by
  simp only [Status.withCcr, h f.toWord w, Status.toWord_getLsbD f, Nat.reduceLT]
  rfl

theorem ActsBitwise.ofWord (h : ActsBitwise op b) (f : Status) (w : Half) : Status.ofWord (op f.toWord w) =
    { t := b f.t (w.getLsbD 15), s := b f.s (w.getLsbD 13), m := b f.m (w.getLsbD 12),
      i := (Status.ofWord (op f.toWord w)).i, x := b f.x (w.getLsbD 4), n := b f.n (w.getLsbD 3),
      z := b f.z (w.getLsbD 2), v := b f.v (w.getLsbD 1), c := b f.c (w.getLsbD 0) } := by
  simp only [Status.ofWord, h f.toWord w, Status.toWord_getLsbD f, Nat.reduceLT]
  rfl

/-- The interrupt mask is bits 10 to 8 (10_state R28). -/
theorem ActsBitwise.ofWord_i (h : ActsBitwise op b) (f : Status) (w : Half) {j : Nat} (hj : j < 3) :
    (Status.ofWord (op f.toWord w)).i.getLsbD j = b (f.i.getLsbD j) (w.getLsbD (8 + j)) := by
  have hf : f.toWord.getLsbD (8 + j) = f.i.getLsbD j := by
    rw [Status.toWord_getLsbD f (by omega)]
    interval_cases j <;> rfl
  rw [Status.ofWord, BitVec.getLsbD_extractLsb', h _ _ _ (by omega), hf, decide_eq_true hj, Bool.true_and]
end

theorem after1_sr (s : State) : (after1 s).sr = s.sr := (Consults.fetch s).sr

theorem run_logicCcr (op : Half → Half → Half) (s : State) :
    logicCcr op s = .ok () ((after1 s).setSr (s.sr.withCcr (op s.sr.toWord (word1 s)))) := by
  rw [← after1_sr]
  rfl

/-- In supervisor mode a privileged instruction runs (47 R329). -/
theorem run_privileged {body : M Unit} {s : State} (hs : s.sr.s = true) : privileged body s = body s := by
  rw [privileged, run_bind_ok (run_look _ _), if_pos hs]

theorem run_logicSr (op : Half → Half → Half) {s : State} (hs : s.sr.s = true) :
    logicSr op s = .ok () ((after1 s).setSr (Status.ofWord (op s.sr.toWord (word1 s)))) := by
  rw [logicSr, run_privileged hs, ← after1_sr]
  rfl

/-- Each immediate operation on the flags and the one on the whole status word apply the same bitwise operation. -/
theorem exec_statusLogic : ∀ p ∈ [(Instr.andiToCcr, Instr.andiToSr, and), (Instr.oriToCcr, Instr.oriToSr, or),
      (Instr.eoriToCcr, Instr.eoriToSr, xor)],
    ∃ op, ActsBitwise op p.2.2 ∧ ∀ s, exec p.1 s = finish (logicCcr op) s ∧ exec p.2.1 s = finish (logicSr op) s := by
  simp only [List.forall_mem_cons]
  exact ⟨⟨_, and_actsBitwise, fun _ => ⟨rfl, rfl⟩⟩, ⟨_, or_actsBitwise, fun _ => ⟨rfl, rfl⟩⟩,
    ⟨_, xor_actsBitwise, fun _ => ⟨rfl, rfl⟩⟩, List.forall_mem_nil _⟩

section
variable {s s1 s2 : State} {src dst : Ea} {v : Word} {loc : Loc}

theorem exec_moveToCcr (hr : readEa src .w s = .ok v s1) :
    exec (.moveToCcr src) s = .next (s1.setSr (s.sr.withCcr (v.setWidth 16))) := by
  rw [← (readEa_consults hr).sr]
  exact finish_ok (m := readEa src .w >>= _) (run_bind_ok hr)

theorem exec_moveToSr (hs : s.sr.s = true) (hr : readEa src .w s = .ok v s1) :
    exec (.moveToSr src) s = .next (s1.setSr (Status.ofWord (v.setWidth 16))) :=
  finish_ok (m := privileged (readEa src .w >>= _)) ((run_privileged hs).trans (run_bind_ok hr))

theorem exec_moveFromSr (hr : resolve dst .w s = .ok loc s1)
    (hw : writeLoc loc .w (BitVec.ofNat 32 s.sr.toWord.toNat) s1 = .ok () s2) : exec (.moveFromSr dst) s = .next s2 := by
  rw [BitVec.ofNat_toNat, ← (resolve_consults hr).sr] at hw
  exact finish_ok (m := resolve dst .w >>= _) ((run_bind_ok hr).trans ((run_bind_ok (run_look _ _)).trans hw))
end

/-- A bit of the low word is the same bit of the long word. -/
theorem withCcr_setWidth (f : Status) (v : Word) : f.withCcr (v.setWidth 16) =
    { f with x := v.getLsbD 4, n := v.getLsbD 3, z := v.getLsbD 2, v := v.getLsbD 1, c := v.getLsbD 0 } := by
  simp [Status.withCcr]

/-- Settles O48: the immediate operations bit by bit through `toWord_getLsbD`, and one equation per move. -/
theorem statusMoves : Obligations.StatusMoves := by
  unfold Obligations.StatusMoves
  refine ⟨fun p hp s => ?logic, fun s s1 src v _ hr => ⟨?toCcr, fun hs => exec_moveToSr hs hr⟩,
    fun s s1 s2 dst loc _ hr hw => exec_moveFromSr hr hw⟩
  case logic =>
    obtain ⟨op, hop, he⟩ := exec_statusLogic p hp
    obtain ⟨hccr, hsr⟩ := he s
    refine ⟨?_, fun hs => ⟨_, fun j hj => hop.ofWord_i s.sr (word1 s) hj, ?_⟩⟩
    · rw [hccr, finish_ok (run_logicCcr op s), hop.withCcr]
    · rw [hsr, finish_ok (run_logicSr op hs), hop.ofWord]
  case toCcr => rw [exec_moveToCcr hr, withCcr_setWidth]

end
end Sys2Proof.Machine

namespace Sys2Proof.Machine

/-! # Shifts and rotates

One single-bit step is arithmetic on the operand: a double, a half, or a rotation by one position. The loop of a rule then is
the closed form by induction on the count. -/

section
open Claims

/-! ## Rotations of naturals -/

section
variable {n w j k m : Nat}

/-- The low `n - k` bits go up and the high `k` bits come round below them. -/
theorem rotated_split (w : Nat) (hk : k ≤ n) : rotated n w k = 2 ^ k * (w % 2 ^ (n - k)) + w / 2 ^ (n - k) := by
  have hn : 2 ^ n = 2 ^ k * 2 ^ (n - k) := by rw [← Nat.pow_add, Nat.add_sub_cancel' hk]
  rw [rotated, hn, Nat.mul_comm w, Nat.mul_mod_mul_left]

theorem high_bits_lt (hw : w < 2 ^ n) (hk : k ≤ n) : w / 2 ^ (n - k) < 2 ^ k := by
  rwa [Nat.div_lt_iff_lt_mul (Nat.two_pow_pos _), ← Nat.pow_add, Nat.add_sub_cancel' hk]

theorem testBit_rotated (hw : w < 2 ^ n) (hk : k ≤ n) {i : Nat} (hi : i < n) :
    (rotated n w k).testBit i = w.testBit (if i < k then i + (n - k) else i - k) := by
  rw [rotated_split w hk, Nat.testBit_two_pow_mul_add _ (high_bits_lt hw hk)]
  split
  · exact Nat.testBit_div_two_pow w i
  · rw [Nat.testBit_mod_two_pow, decide_eq_true (by omega), Bool.true_and]

theorem rotated_lt (hw : w < 2 ^ n) (hk : k ≤ n) : rotated n w k < 2 ^ n := by
  have hlow : w % 2 ^ (n - k) + 1 ≤ 2 ^ (n - k) := Nat.mod_lt w (Nat.two_pow_pos _)
  have hhigh := high_bits_lt hw hk
  calc rotated n w k
      < 2 ^ k * (w % 2 ^ (n - k) + 1) := by rw [rotated_split w hk, Nat.mul_succ]; omega
    _ ≤ 2 ^ k * 2 ^ (n - k) := Nat.mul_le_mul_left _ hlow
    _ = 2 ^ n := by rw [← Nat.pow_add, Nat.add_sub_cancel' hk]

theorem rotated_zero (hw : w < 2 ^ n) : rotated n w 0 = w := by
  rw [rotated, Nat.pow_zero, Nat.mul_one, Nat.mod_eq_of_lt hw, Nat.sub_zero, Nat.div_eq_of_lt hw, Nat.add_zero]

/-- Rotations add up, modulo the number of positions. -/
theorem rotated_rotated (hw : w < 2 ^ n) (hj : j < n) (hk : k < n) (hm : m < n) (h : m = j + k ∨ m + n = j + k) :
    rotated n (rotated n w j) k = rotated n w m := by
  have hr := rotated_lt hw hj.le
  apply Nat.eq_of_testBit_eq
  intro i
  by_cases hi : i < n
  · rw [testBit_rotated hr hk.le hi, testBit_rotated hw hj.le (by split <;> omega), testBit_rotated hw hm.le hi]
    congr 1
    split <;> split <;> split <;> omega
  · have hpow : 2 ^ n ≤ 2 ^ i := Nat.pow_le_pow_right (by decide) (Nat.le_of_not_lt hi)
    rw [Nat.testBit_lt_two_pow ((rotated_lt hr hk.le).trans_le hpow),
      Nat.testBit_lt_two_pow ((rotated_lt hw hm.le).trans_le hpow)]
end

/-! ## Values in naturals -/

theorem one_lt_bitCount (sz : Size) : 1 < bitCount sz := by cases sz <;> decide

theorem bitCount_pos (sz : Size) : 0 < bitCount sz := Nat.zero_lt_of_lt (one_lt_bitCount sz)

theorem span_le (sz : Size) : span sz ≤ 2 ^ 32 := by cases sz <;> decide

theorem mod_span_lt (sz : Size) (u : Nat) : u % span sz < span sz := Nat.mod_lt u (Nat.two_pow_pos _)

theorem span_eq_double (sz : Size) : span sz = 2 * 2 ^ (bitCount sz - 1) := by cases sz <;> rfl

theorem bitNat_decide (p : Prop) [Decidable p] : bitNat (decide p) = if p then 1 else 0 := by
  rw [bitNat]
  simp only [decide_eq_true_eq]

theorem bitNat_testBit (u i : Nat) : bitNat (u.testBit i) = u / 2 ^ i % 2 := by
  rw [Nat.testBit_eq_decide_div_mod_eq, bitNat_decide]
  split <;> omega

theorem bitWord_toNat (b : Bool) : (bitWord b).toNat = bitNat b := by cases b <;> rfl

theorem ofNat_toNat_of_lt {sz : Size} {u : Nat} (hu : u < span sz) : (BitVec.ofNat 32 u).toNat = u := by
  rw [BitVec.toNat_ofNat, Nat.mod_eq_of_lt (hu.trans_le (span_le sz))]

theorem ofNat_mod_span_toNat (sz : Size) (u : Nat) : (BitVec.ofNat 32 (u % span sz)).toNat = u % span sz :=
  ofNat_toNat_of_lt (mod_span_lt sz u)

/-- Shifting left by one, with a bit coming in below. -/
theorem shiftedLeft_toNat (sz : Size) (v : Word) (b : Bool) :
    (trunc sz (v <<< 1) ||| bitWord b).toNat = 2 * v.toNat % span sz + bitNat b := by
  have hleft : (trunc sz (v <<< 1)).toNat = 2 ^ 1 * (v.toNat % 2 ^ (bitCount sz - 1)) := by
    rw [trunc_toNat, BitVec.toNat_shiftLeft, Nat.shiftLeft_eq]
    cases sz <;> simp only [span, bitCount] <;> omega
  have hright : 2 * v.toNat % span sz = 2 ^ 1 * (v.toNat % 2 ^ (bitCount sz - 1)) := by
    rw [span_eq_double, Nat.mul_mod_mul_left, Nat.pow_one]
  have hb : bitNat b < 2 ^ 1 := Nat.lt_succ_of_le (bitNat_le_one b)
  rw [BitVec.toNat_or, bitWord_toNat, hleft, hright, Nat.two_pow_add_eq_or_of_lt hb]

theorem topBit_toNat (sz : Size) (b : Bool) : (topBit sz b).toNat = 2 ^ (bitCount sz - 1) * bitNat b := by
  cases sz <;> cases b <;> rfl

/-- Shifting right by one, with a bit coming in at the top. -/
theorem shiftedRight_toNat {sz : Size} {v : Word} (hv : v.toNat < span sz) (b : Bool) :
    (v >>> 1 ||| topBit sz b).toNat = 2 ^ (bitCount sz - 1) * bitNat b + v.toNat / 2 := by
  have hhalf : v.toNat / 2 < 2 ^ (bitCount sz - 1) := by
    rw [span_eq_double] at hv
    omega
  rw [BitVec.toNat_or, topBit_toNat, BitVec.toNat_ushiftRight, Nat.shiftRight_eq_div_pow, Nat.pow_one, Nat.or_comm,
    Nat.two_pow_add_eq_or_of_lt hhalf]

theorem ushiftRight_one_toNat (v : Word) : (v >>> 1).toNat = v.toNat / 2 := by
  rw [BitVec.toNat_ushiftRight, Nat.shiftRight_eq_div_pow, Nat.pow_one]

theorem msbOf_ofNat {sz : Size} {u : Nat} (hu : u < span sz) :
    msbOf sz (BitVec.ofNat 32 u) = u.testBit (bitCount sz - 1) := by
  rw [msbOf, BitVec.getLsbD, ofNat_toNat_of_lt hu]

theorem getLsbD_zero_ofNat {sz : Size} {u : Nat} (hu : u < span sz) : (BitVec.ofNat 32 u).getLsbD 0 = u.testBit 0 := by
  rw [BitVec.getLsbD, ofNat_toNat_of_lt hu]

/-- The value of an integer depends on it modulo `2^bits(sz)` only. -/
theorem ofValue_sub_mul (sz : Size) (t k : Int) : ofValue sz (t - span sz * k) = ofValue sz t := by
  rw [ofValue, ofValue, Int.sub_mul_emod_self_left]

theorem ofValue_natCast {sz : Size} {u : Nat} (hu : u < span sz) : ofValue sz u = BitVec.ofNat 32 u := by
  rw [ofValue, Int.emod_eq_of_lt (by omega) (by omega), Int.toNat_natCast]

/-- A multiple of the signed value of an operand is, as a value, the same multiple of the operand. -/
theorem ofValue_signedOf_mul (sz : Size) (v : Word) (k : Int) :
    ofValue sz (signedOf sz v * k) = ofValue sz (v.toNat * k) := by
  rcases signedOf_cases sz v with ⟨_, h⟩ | ⟨_, h⟩
  · rw [h]
  · rw [h, Int.sub_mul, ofValue_sub_mul]

theorem inRange_signedOf {sz : Size} {v : Word} (hv : v.toNat < span sz) : inRange sz (signedOf sz v) = true := by
  have h := signedOf_cases sz v
  rw [inRange, decide_eq_true_eq]
  omega

/-! ## One single-bit step -/

/-- A closed form as what the steps carry. -/
def Claims.Shifted.acc (r : Shifted) : ShiftAcc := { v := r.value, x := r.x, c := r.c, ov := r.v }

theorem shl_ofValue (sz : Size) (t : Int) : trunc sz (ofValue sz t <<< 1) = ofValue sz (t * 2) := by
  have ht := ofValue_toNat sz t
  have ht2 := ofValue_toNat sz (t * 2)
  apply BitVec.eq_of_toNat_eq
  rw [trunc_toNat, BitVec.toNat_shiftLeft, Nat.shiftLeft_eq]
  cases sz <;> simp only [span, bitCount] at * <;> omega

/-- Doubling changes the sign of a value in range exactly when the double is out of range; then it stays so. -/
theorem overflow_double (sz : Size) (t : Int) :
    (!inRange sz t || (msbOf sz (ofValue sz (t * 2)) != msbOf sz (ofValue sz t))) = !inRange sz (t * 2) := by
  have ht := ofValue_toNat sz t
  have ht2 := ofValue_toNat sz (t * 2)
  rw [msbOf_eq_negative (ofValue_lt sz t), msbOf_eq_negative (ofValue_lt sz _), Bool.eq_iff_iff]
  simp only [negative, inRange, Bool.or_eq_true, bne_iff_ne, ne_eq, decide_eq_decide, Bool.not_eq_true',
    decide_eq_false_iff_not]
  cases sz <;> simp only [span, bitCount] at * <;> omega

section
variable {sz : Size} {x c ov : Bool} {r : Nat} {t : Int}

theorem shiftStep_lsl (sz : Size) (t : Int) (x c ov : Bool) : shiftStep .lsl sz ⟨ofValue sz t, x, c, ov⟩ =
    ⟨ofValue sz (t * 2), msbOf sz (ofValue sz t), msbOf sz (ofValue sz t), ov⟩ := by
  rw [← shl_ofValue]
  rfl

theorem shiftStep_asl (sz : Size) (t : Int) (x c : Bool) : shiftStep .asl sz ⟨ofValue sz t, x, c, !inRange sz t⟩ =
    ⟨ofValue sz (t * 2), msbOf sz (ofValue sz t), msbOf sz (ofValue sz t), !inRange sz (t * 2)⟩ := by
  rw [← overflow_double, ← shl_ofValue]
  rfl

theorem shiftStep_lsr (hr : r < span sz) : shiftStep .lsr sz ⟨BitVec.ofNat 32 r, x, c, ov⟩ =
    ⟨BitVec.ofNat 32 (r / 2), r.testBit 0, r.testBit 0, ov⟩ := by
  have hv : BitVec.ofNat 32 r >>> 1 = BitVec.ofNat 32 (r / 2) := by
    apply BitVec.eq_of_toNat_eq
    rw [ushiftRight_one_toNat, ofNat_toNat_of_lt hr, ofNat_toNat_of_lt (lt_of_le_of_lt (Nat.div_le_self r 2) hr)]
  rw [← hv, ← getLsbD_zero_ofNat hr]
  rfl

/-- Half of a signed value, rounded down, keeps the sign. -/
theorem shiftStep_asr (ht : inRange sz t = true) : shiftStep .asr sz ⟨ofValue sz t, x, c, ov⟩ =
    ⟨ofValue sz (t / 2), decide (t % 2 = 1), decide (t % 2 = 1), ov⟩ := by
  have h1 := ofValue_toNat sz t
  have h2 := ofValue_toNat sz (t / 2)
  rw [inRange, decide_eq_true_eq] at ht
  have hv : ofValue sz t >>> 1 ||| topBit sz (msbOf sz (ofValue sz t)) = ofValue sz (t / 2) := by
    apply BitVec.eq_of_toNat_eq
    rw [shiftedRight_toNat (ofValue_lt sz t), msbOf_eq_negative (ofValue_lt sz t), negative, bitNat_decide]
    split <;> cases sz <;> simp only [span, bitCount] at * <;> omega
  have hc : (ofValue sz t).getLsbD 0 = decide (t % 2 = 1) := by
    rw [BitVec.getLsbD, Nat.testBit_zero, decide_eq_decide]
    cases sz <;> simp only [span, bitCount] at * <;> omega
  rw [← hv, ← hc]
  rfl

theorem shiftStep_rol (hr : r < span sz) : shiftStep .rol sz ⟨BitVec.ofNat 32 r, x, c, ov⟩ =
    ⟨BitVec.ofNat 32 (rotated (bitCount sz) r 1), x, (rotated (bitCount sz) r 1).testBit 0, ov⟩ := by
  have hb := bitCount_pos sz
  have hc : (rotated (bitCount sz) r 1).testBit 0 = msbOf sz (BitVec.ofNat 32 r) := by
    rw [testBit_rotated hr hb hb, msbOf_ofNat hr, if_pos Nat.one_pos, Nat.zero_add]
  have hv : trunc sz (BitVec.ofNat 32 r <<< 1) ||| bitWord (msbOf sz (BitVec.ofNat 32 r)) =
      BitVec.ofNat 32 (rotated (bitCount sz) r 1) := by
    apply BitVec.eq_of_toNat_eq
    rw [shiftedLeft_toNat, ofNat_toNat_of_lt hr, ofNat_toNat_of_lt (rotated_lt (k := 1) hr hb), msbOf_ofNat hr,
      bitNat_testBit, rotated]
    cases sz <;> simp only [span, bitCount] at * <;> omega
  rw [← hv, hc]
  rfl

theorem shiftStep_ror (hr : r < span sz) : shiftStep .ror sz ⟨BitVec.ofNat 32 r, x, c, ov⟩ =
    ⟨BitVec.ofNat 32 (rotated (bitCount sz) r (bitCount sz - 1)), x,
      (rotated (bitCount sz) r (bitCount sz - 1)).testBit (bitCount sz - 1), ov⟩ := by
  have hb := bitCount_pos sz
  have hc : (rotated (bitCount sz) r (bitCount sz - 1)).testBit (bitCount sz - 1) = (BitVec.ofNat 32 r).getLsbD 0 := by
    rw [testBit_rotated hr (by omega) (by omega), getLsbD_zero_ofNat hr, if_neg (by omega), Nat.sub_self]
  have hv : BitVec.ofNat 32 r >>> 1 ||| topBit sz ((BitVec.ofNat 32 r).getLsbD 0) =
      BitVec.ofNat 32 (rotated (bitCount sz) r (bitCount sz - 1)) := by
    apply BitVec.eq_of_toNat_eq
    rw [shiftedRight_toNat ((ofNat_toNat_of_lt hr).trans_lt hr), ofNat_toNat_of_lt hr,
      ofNat_toNat_of_lt (rotated_lt hr (by omega)), getLsbD_zero_ofNat hr, bitNat_testBit, rotated]
    cases sz <;> simp only [span, bitCount] at * <;> omega
  rw [← hv, hc]
  rfl

/-- What the steps of a rotate through extend carry, `r` holding `X` above the operand (43 R266, R267). -/
def extendedAcc (sz : Size) (r : Nat) : ShiftAcc :=
  { v := BitVec.ofNat 32 (r % span sz), x := r.testBit (bitCount sz), c := r.testBit (bitCount sz), ov := false }

theorem shiftStep_roxl (hr : r < 2 ^ (bitCount sz + 1)) :
    shiftStep .roxl sz (extendedAcc sz r) = extendedAcc sz (rotated (bitCount sz + 1) r 1) := by
  have hb := bitCount_pos sz
  have hc : (rotated (bitCount sz + 1) r 1).testBit (bitCount sz) = msbOf sz (BitVec.ofNat 32 (r % span sz)) := by
    rw [testBit_rotated hr (by omega) (by omega), msbOf_ofNat (mod_span_lt sz r), if_neg (by omega), span,
      Nat.testBit_mod_two_pow, decide_eq_true (by omega), Bool.true_and]
  have hv : trunc sz (BitVec.ofNat 32 (r % span sz) <<< 1) ||| bitWord (r.testBit (bitCount sz)) =
      BitVec.ofNat 32 (rotated (bitCount sz + 1) r 1 % span sz) := by
    apply BitVec.eq_of_toNat_eq
    have hx : r / 2 ^ bitCount sz < 2 := by rwa [Nat.div_lt_iff_lt_mul (Nat.two_pow_pos _), ← Nat.pow_succ']
    rw [shiftedLeft_toNat, ofNat_mod_span_toNat, ofNat_mod_span_toNat, bitNat_testBit,
      rotated_split _ (by omega), Nat.add_sub_cancel]
    interval_cases r / 2 ^ bitCount sz <;> cases sz <;> simp only [span, bitCount] at * <;> omega
  rw [extendedAcc, extendedAcc, ← hv, hc]
  rfl

theorem shiftStep_roxr (hr : r < 2 ^ (bitCount sz + 1)) :
    shiftStep .roxr sz (extendedAcc sz r) = extendedAcc sz (rotated (bitCount sz + 1) r (bitCount sz)) := by
  have hb := bitCount_pos sz
  have hc : (rotated (bitCount sz + 1) r (bitCount sz)).testBit (bitCount sz) =
      (BitVec.ofNat 32 (r % span sz)).getLsbD 0 := by
    rw [testBit_rotated hr (by omega) (by omega), getLsbD_zero_ofNat (mod_span_lt sz r), if_neg (by omega), Nat.sub_self,
      span, Nat.testBit_mod_two_pow, decide_eq_true hb, Bool.true_and]
  have hv : BitVec.ofNat 32 (r % span sz) >>> 1 ||| topBit sz (r.testBit (bitCount sz)) =
      BitVec.ofNat 32 (rotated (bitCount sz + 1) r (bitCount sz) % span sz) := by
    apply BitVec.eq_of_toNat_eq
    rw [shiftedRight_toNat (by rw [ofNat_mod_span_toNat]; exact mod_span_lt sz r), ofNat_mod_span_toNat,
      ofNat_mod_span_toNat, bitNat_testBit, rotated_split _ (by omega), span, Nat.mul_add_mod]
    cases sz <;> simp only [span, bitCount] at * <;> omega
  rw [extendedAcc, extendedAcc, ← hv, hc]
  rfl
end

/-! ## The loop in closed form -/

theorem shiftLoop_succ (k : ShiftKind) (sz : Size) (n : Nat) (a : ShiftAcc) :
    shiftLoop k sz (n + 1) a = shiftStep k sz (shiftLoop k sz n a) := by
  induction n generalizing a with
  | zero => rfl
  | succ n ih => exact ih (shiftStep k sz a)

theorem inRange_ediv {sz : Size} {t : Int} (h : inRange sz t = true) (n : Nat) : inRange sz (t / 2 ^ n) = true := by
  induction n with
  | zero => rwa [Int.pow_zero, Int.ediv_one]
  | succ n ih =>
    have hs := span_even sz
    rw [Int.pow_succ, ← Int.ediv_ediv_of_nonneg (by positivity)]
    rw [inRange, decide_eq_true_eq] at *
    omega

/-- The bit that the next step moves out at the top. -/
theorem msbOf_ofValue_mul_two_pow (sz : Size) (u n : Nat) : msbOf sz (ofValue sz (u * 2 ^ n)) =
    (decide (0 < n + 1 ∧ n + 1 ≤ bitCount sz) && u.testBit (bitCount sz - (n + 1))) := by
  have hb := bitCount_pos sz
  have hv := ofValue_toNat sz ((u * 2 ^ n : Nat) : Int)
  rw [← Int.natCast_mod, Int.natCast_inj] at hv
  push_cast at hv
  rw [msbOf, BitVec.getLsbD, hv, span, Nat.testBit_mod_two_pow, Nat.testBit_mul_two_pow, decide_eq_true (by omega),
    Bool.true_and, Nat.sub_sub, Nat.add_comm 1 n]
  congr 1
  rw [decide_eq_decide]
  omega

/-- From the sign bit on nothing but copies of the sign is left. -/
theorem inRange_ediv_sign {sz : Size} {t : Int} (h : inRange sz t = true) {n : Nat} (hn : bitCount sz - 1 ≤ n) :
    t / 2 ^ n = if t < 0 then -1 else 0 := by
  have hpow : 2 ^ (bitCount sz - 1) ≤ (2 : Int) ^ n := pow_le_pow_right₀ (by decide) hn
  have hs : (span sz : Int) = 2 * 2 ^ (bitCount sz - 1) := by exact_mod_cast span_eq_double sz
  rw [inRange, decide_eq_true_eq] at h
  split
  · exact Int.ediv_eq_neg_one_of_neg_of_le (by omega) (by omega)
  · exact Int.ediv_eq_zero_of_lt (by omega) (by omega)

/-- Below the sign bit a signed value has the bits of the operand. -/
theorem signedOf_ediv_emod_two {sz : Size} (v : Word) {n : Nat} (hn : n < bitCount sz) :
    signedOf sz v / 2 ^ n % 2 = (v.toNat / 2 ^ n % 2 : Nat) := by
  have hs : (span sz : Int) = 2 ^ n * (2 * 2 ^ (bitCount sz - (n + 1))) := by
    rw [← Int.mul_assoc, ← Int.pow_succ, ← Int.pow_add, Nat.add_sub_cancel' hn, span, Int.natCast_pow]
    rfl
  push_cast
  rcases signedOf_cases sz v with ⟨_, h⟩ | ⟨_, h⟩
  · rw [h]
  · rw [h, hs, Int.sub_mul_ediv_left _ _ (by positivity), Int.sub_mul_emod_self_left]

/-- The bit that the next step of an arithmetic shift moves out at the bottom. -/
theorem signedOf_ediv_odd {sz : Size} {v : Word} (hv : v.toNat < span sz) (n : Nat) :
    decide (signedOf sz v / 2 ^ n % 2 = 1) = v.toNat.testBit (min n (bitCount sz - 1)) := by
  have hb := bitCount_pos sz
  by_cases hn : n < bitCount sz
  · rw [Nat.min_eq_left (by omega), Nat.testBit_eq_decide_div_mod_eq, decide_eq_decide, signedOf_ediv_emod_two v hn]
    omega
  · have hmsb : v.toNat.testBit (bitCount sz - 1) = negative sz v := msbOf_eq_negative hv
    have hsign := signedOf_cases sz v
    rw [Nat.min_eq_right (by omega), hmsb, negative, inRange_ediv_sign (inRange_signedOf hv) (by omega), decide_eq_decide]
    split <;> omega

/-- One position further to the left, modulo the number of positions. -/
theorem rotated_left_succ {N w : Nat} (hw : w < 2 ^ N) (hN : 1 < N) (n : Nat) :
    rotated N (rotated N w (n % N)) 1 = rotated N w ((n + 1) % N) := by
  have hn := Nat.mod_lt n (Nat.zero_lt_of_lt hN)
  refine rotated_rotated hw hn hN (Nat.mod_lt _ (Nat.zero_lt_of_lt hN)) ?_
  rw [Nat.add_mod_eq_ite, Nat.mod_eq_of_lt hN]
  split <;> omega

/-- One position further to the right, as rotations to the left. -/
theorem rotated_right_succ {N w : Nat} (hw : w < 2 ^ N) (hN : 1 < N) (n : Nat) :
    rotated N (rotated N w ((N - n % N) % N)) (N - 1) = rotated N w ((N - (n + 1) % N) % N) := by
  have hpos := Nat.zero_lt_of_lt hN
  have hn := Nat.mod_lt n hpos
  have back {j : Nat} (hj : j < N) : (N - j) % N = if j = 0 then 0 else N - j := by
    split
    · next h => rw [h, Nat.sub_zero, Nat.mod_self]
    · exact Nat.mod_eq_of_lt (by omega)
  refine rotated_rotated hw (Nat.mod_lt _ hpos) (by omega) (Nat.mod_lt _ hpos) ?_
  rw [back hn, back (Nat.mod_lt (n + 1) hpos), Nat.add_mod_eq_ite, Nat.mod_eq_of_lt hN]
  split <;> split <;> split <;> omega

/-- The operand with `X` above it. -/
theorem withExtend_lt {sz : Size} {v : Word} (hv : v.toNat < span sz) (x : Bool) :
    bitNat x * 2 ^ bitCount sz + v.toNat < 2 ^ (bitCount sz + 1) := by
  have hx := Nat.mul_le_mul_right (2 ^ bitCount sz) (bitNat_le_one x)
  rw [span] at hv
  omega

/-- A step from the closed form for `n` gives the one for `n + 1`. -/
theorem shiftStep_shiftValue {k : ShiftKind} {sz : Size} {v : Word} (hv : v.toNat < span sz) (n : Nat) (x : Bool) :
    shiftStep k sz (shiftValue k sz n v x).acc = (shiftValue k sz (n + 1) v x).acc := by
  cases k with
  | lsl =>
    refine (shiftStep_lsl sz (v.toNat * 2 ^ n) _ _ _).trans ?_
    rw [msbOf_ofValue_mul_two_pow, Int.mul_assoc, ← Int.pow_succ]
    rfl
  | asl =>
    have h := shiftStep_asl sz (signedOf sz v * 2 ^ n)
    simp only [Int.mul_assoc, ← Int.pow_succ, ofValue_signedOf_mul, msbOf_ofValue_mul_two_pow] at h
    exact h _ _
  | lsr =>
    refine (shiftStep_lsr (lt_of_le_of_lt (Nat.div_le_self v.toNat (2 ^ n)) hv)).trans ?_
    rw [Nat.testBit_div_two_pow, Nat.zero_add, Nat.div_div_eq_div_mul, ← Nat.pow_succ]
    rfl
  | asr =>
    refine (shiftStep_asr (inRange_ediv (inRange_signedOf hv) n)).trans ?_
    rw [signedOf_ediv_odd hv, Int.ediv_ediv_of_nonneg (by positivity), ← Int.pow_succ]
    rfl
  | rol =>
    refine (shiftStep_rol (rotated_lt hv (Nat.mod_lt n (bitCount_pos sz)).le)).trans ?_
    rw [rotated_left_succ hv (one_lt_bitCount sz)]
    rfl
  | ror =>
    refine (shiftStep_ror (rotated_lt hv (Nat.mod_lt _ (bitCount_pos sz)).le)).trans ?_
    rw [rotated_right_succ hv (one_lt_bitCount sz)]
    rfl
  | roxl =>
    have hw := withExtend_lt hv x
    have hb := Nat.succ_lt_succ (bitCount_pos sz)
    exact (shiftStep_roxl (rotated_lt hw (Nat.mod_lt n (Nat.succ_pos _)).le)).trans
      (congrArg (extendedAcc sz) (rotated_left_succ hw hb n))
  | roxr =>
    have hw := withExtend_lt hv x
    have hb := Nat.succ_lt_succ (bitCount_pos sz)
    exact (shiftStep_roxr (rotated_lt hw (Nat.mod_lt _ (Nat.succ_pos _)).le)).trans
      (congrArg (extendedAcc sz) (rotated_right_succ hw hb n))

theorem testBit_withExtend {sz : Size} {v : Word} (hv : v.toNat < span sz) (x : Bool) :
    (bitNat x * 2 ^ bitCount sz + v.toNat).testBit (bitCount sz) = x := by
  rw [Nat.mul_comm, Nat.testBit_two_pow_mul_add _ hv, if_neg (Nat.lt_irrefl _), Nat.sub_self]
  cases x <;> rfl

/-- With count 0 nothing moves, and the rotates through extend copy `X` to `C` (43 R266, R267, R269). -/
theorem shiftValue_zero (k : ShiftKind) {sz : Size} {v : Word} (hv : v.toNat < span sz) (x : Bool) :
    (shiftValue k sz 0 v x).acc = { v := v, x := x, c := shiftCarryIn k x, ov := false } := by
  have hself : BitVec.ofNat 32 v.toNat = v := by rw [BitVec.ofNat_toNat, BitVec.setWidth_eq]
  have hw := withExtend_lt hv x
  have hmod : (bitNat x * 2 ^ bitCount sz + v.toNat) % 2 ^ bitCount sz = v.toNat := by
    rw [Nat.mul_comm, Nat.mul_add_mod]
    exact Nat.mod_eq_of_lt hv
  cases k with
  | lsl | asl | lsr => simp [shiftValue, Shifted.acc, shiftCarryIn, ofValue_natCast hv, hself, inRange_signedOf hv]
  | asr =>
    have hs := ofValue_signedOf_mul sz v 1
    rw [Int.mul_one, Int.mul_one] at hs
    simp [shiftValue, Shifted.acc, shiftCarryIn, hs, ofValue_natCast hv, hself]
  | rol | ror => simp [shiftValue, Shifted.acc, shiftCarryIn, rotated_zero hv, hself]
  | roxl | roxr =>
    simp [shiftValue, Shifted.acc, shiftCarryIn, rotated_zero hw, hmod, testBit_withExtend hv, hself]

/-- The loop of every rule is the closed form (43 R260 to R267). -/
theorem shiftRun_eq (k : ShiftKind) {sz : Size} {v : Word} (hv : v.toNat < span sz) (n : Nat) (x : Bool) :
    shiftRun k sz n v x = (shiftValue k sz n v x).acc := by
  induction n with
  | zero => exact (shiftValue_zero k hv x).symm
  | succ n ih => rw [shiftRun, shiftLoop_succ, ← shiftRun, ih, shiftStep_shiftValue hv]

theorem shiftValue_lt (k : ShiftKind) {sz : Size} {v : Word} (hv : v.toNat < span sz) (n : Nat) (x : Bool) :
    (shiftValue k sz n v x).value.toNat < span sz := by
  have hb := bitCount_pos sz
  have hofNat {r : Nat} (hr : r < span sz) : (BitVec.ofNat 32 r).toNat < span sz := (ofNat_toNat_of_lt hr).trans_lt hr
  cases k with
  | lsl | asl | asr => exact ofValue_lt sz _
  | lsr => exact hofNat (lt_of_le_of_lt (Nat.div_le_self _ _) hv)
  | rol | ror => exact hofNat (rotated_lt hv (Nat.mod_lt _ hb).le)
  | roxl | roxr => exact hofNat (mod_span_lt sz _)

theorem shifted_acc {sz : Size} {r : Shifted} (hr : r.value.toNat < span sz) (f : Status) :
    f.shifted sz r.acc = shiftStatus sz r f := by
  rw [Status.shifted, Shifted.acc, isZero_eq hr, msbOf_eq_negative hr]
  rfl

/-! ## The instructions (43 R269) -/

section
variable {k : ShiftKind}

theorem run_shiftReg (c : ShiftCount) (sz : Size) (n : Reg) (s : State) : shiftReg k c sz n s =
    .ok () ((s.writeD n sz (shiftRun k sz (shiftCount s c) (trunc sz (s.dreg n)) s.sr.x).v).setSr
      (s.sr.shifted sz (shiftRun k sz (shiftCount s c) (trunc sz (s.dreg n)) s.sr.x))) := rfl

theorem shiftReg_closed (c : ShiftCount) (sz : Size) (n : Reg) (s : State) :
    finish (shiftReg k c sz n) s =
      .next ((s.writeD n sz (shiftValue k sz (shiftCount s c) (trunc sz (s.dreg n)) s.sr.x).value).setSr
        (shiftStatus sz (shiftValue k sz (shiftCount s c) (trunc sz (s.dreg n)) s.sr.x) s.sr)) := by
  have hv := trunc_lt sz (s.dreg n)
  rw [finish_ok (run_shiftReg c sz n s), shiftRun_eq k hv, shifted_acc (shiftValue_lt k hv _ _)]
  rfl

theorem shiftsRegister_of {i : ShiftCount → Size → Reg → Instr}
    (he : ∀ c sz n s, exec (i c sz n) s = finish (shiftReg k c sz n) s) : ShiftsRegister i k :=
  fun s sz n q m => ⟨(he (.imm q) sz n s).trans (shiftReg_closed _ sz n s),
    (he (.reg m) sz n s).trans (shiftReg_closed _ sz n s)⟩

theorem shiftsMemory_of {i : Ea → Instr} (he : ∀ dst s, exec (i dst) s = finish (shiftMem k dst) s) :
    ShiftsMemory i k := by
  intro s s1 dst loc _ hr
  have hd := readLocFrom_lt (resolve_isOf hr) s1
  have hc := (resolve_consults hr).read (loc := loc) (sz := .w)
  refine changes_of (g := fun f => f.shifted .w (shiftRun k .w 1 (readLocFrom s1 loc .w).1 f.x)) (he dst s) ?_ hc ?_
  · rw [shiftMem, run_bind_ok hr, run_bind_ok (run_readLoc _ _ _), run_bind_ok (run_look _ _), hc.sr, shiftRun_eq k hd]
    rfl
  · rw [shiftRun_eq k hd, shifted_acc (shiftValue_lt k hd _ _)]
end

/-- Settles O43: each instruction runs the loop of its rule, and `shiftRun_eq` gives the loop in closed form. -/
theorem shiftResults : Obligations.ShiftResults := by
  unfold Obligations.ShiftResults
  have reg {k : ShiftKind} {i : ShiftCount → Size → Reg → Instr} := shiftsRegister_of (k := k) (i := i)
  have mem {k : ShiftKind} {i : Ea → Instr} := shiftsMemory_of (k := k) (i := i)
  exact ⟨⟨reg fun _ _ _ _ => rfl, reg fun _ _ _ _ => rfl, reg fun _ _ _ _ => rfl, reg fun _ _ _ _ => rfl,
      reg fun _ _ _ _ => rfl, reg fun _ _ _ _ => rfl, reg fun _ _ _ _ => rfl, reg fun _ _ _ _ => rfl⟩,
    mem fun _ _ => rfl, mem fun _ _ => rfl, mem fun _ _ => rfl, mem fun _ _ => rfl, mem fun _ _ => rfl,
    mem fun _ _ => rfl, mem fun _ _ => rfl, mem fun _ _ => rfl⟩

end
end Sys2Proof.Machine

namespace Sys2Proof.Machine

/-! # Bit manipulation

The operand with one bit replaced, as a number, has the bits that each operation with `1 << k` leaves. -/

section
open Claims

/-! ## One bit of a natural -/

/-- `d` with its bit `k` replaced by `b`, in the arithmetic of `Claims.ChangesBit`. -/
def withBit (d k : Nat) (b : Bool) : Nat := d - 2 ^ k * bitNat (d.testBit k) + 2 ^ k * bitNat b

/-- The bits above `k`, bit `k` and the bits below it. -/
theorem withBit_split (d k : Nat) (b : Bool) : withBit d k b = 2 ^ k * Nat.bit b (d / 2 ^ k / 2) + d % 2 ^ k := by
  have hd := Nat.div_add_mod d (2 ^ k)
  have hq : 2 ^ k * (d / 2 ^ k) = 2 ^ k * (2 * (d / 2 ^ k / 2)) + 2 ^ k * (d / 2 ^ k % 2) := by
    rw [← Nat.mul_add, Nat.div_add_mod]
  have hb : bitNat b = b.toNat := by cases b <;> rfl
  rw [withBit, bitNat_testBit, hb, Nat.bit_val, Nat.mul_add]
  omega

theorem testBit_withBit (d k : Nat) (b : Bool) (j : Nat) :
    (withBit d k b).testBit j = if j = k then b else d.testBit j := by
  rw [withBit_split, Nat.testBit_two_pow_mul_add _ (Nat.mod_lt d (Nat.two_pow_pos k))]
  rcases Nat.lt_trichotomy j k with h | rfl | h
  · rw [if_pos h, if_neg h.ne, Nat.testBit_mod_two_pow, decide_eq_true h, Bool.true_and]
  · rw [if_neg (Nat.lt_irrefl j), if_pos rfl, Nat.sub_self, Nat.testBit_bit_zero]
  · obtain ⟨i, rfl⟩ := Nat.exists_eq_add_of_lt h
    rw [if_neg (by omega), if_neg (by omega), Nat.add_assoc, Nat.add_sub_cancel_left, Nat.testBit_bit_succ,
      ← Nat.testBit_succ, Nat.testBit_div_two_pow, Nat.add_comm]

/-! ## One bit of a long word -/

/-- An operation that gives the bits of `d` where `m` has ones as `new`, and leaves the others. -/
def ChangesMasked (op : Word → Word → Word) (new : Bool → Bool) : Prop :=
  ∀ d m j, j < 32 → (op d m).getLsbD j = if m.getLsbD j then new (d.getLsbD j) else d.getLsbD j

theorem xor_changesMasked : ChangesMasked (fun d m => d ^^^ m) not := by
  intro d m j _
  rw [BitVec.getLsbD_xor]
  cases m.getLsbD j <;> simp

theorem andNot_changesMasked : ChangesMasked (fun d m => d &&& ~~~ m) fun _ => false := by
  intro d m j hj
  rw [BitVec.getLsbD_and, BitVec.getLsbD_not, decide_eq_true hj]
  cases m.getLsbD j <;> simp

theorem or_changesMasked : ChangesMasked (fun d m => d ||| m) fun _ => true := by
  intro d m j _
  rw [BitVec.getLsbD_or]
  cases m.getLsbD j <;> simp

theorem getLsbD_bitMask (k : Nat) {j : Nat} (hj : j < 32) : (bitMask k).getLsbD j = decide (k = j) := by
  rw [bitMask, BitVec.getLsbD_ofNat, decide_eq_true hj, Bool.true_and, Nat.testBit_two_pow]

/-- With `1 << k` such an operation changes bit `k` alone. -/
theorem ChangesMasked.bitMask_eq {op : Word → Word → Word} {new : Bool → Bool} (h : ChangesMasked op new) (d : Word)
    (k : Nat) : op d (bitMask k) = BitVec.ofNat 32 (withBit d.toNat k (new (d.toNat.testBit k))) := by
  apply BitVec.eq_of_getLsbD_eq
  intro j hj
  rw [h d _ j hj, getLsbD_bitMask k hj, BitVec.getLsbD_ofNat, decide_eq_true hj, Bool.true_and, testBit_withBit]
  by_cases hjk : j = k
  · subst hjk
    simp [BitVec.getLsbD]
  · simp [BitVec.getLsbD, hjk, Ne.symm hjk]

/-! ## The instructions (44 R280 to R284) -/

/-- The static number is fetched before the operand is resolved (44 R280). -/
theorem run_staticBit_bind {β : Type} (f : Nat → M β) (s : State) :
    (staticBit >>= f) s = f ((word1 s).toNat % 256) (after1 s) := rfl

theorem run_dynamicBit_bind {β : Type} (n : Reg) (f : Nat → M β) (s : State) :
    (dynamicBit n >>= f) s = f (s.dreg n).toNat s := rfl

section
variable {i : Instr} {m : M Unit} {dst : Ea} {bn : Nat} {s s0 : State}

/-- `BTST` from the state in which its operand is read. -/
theorem exec_bitTest (he : exec i s = finish m s) (hm : m s = bitTest dst bn s0) (h0 : Consults s s0) {s1 : State}
    {d : Word} (hr : readEa dst (bitSize dst) s0 = .ok d s1) : exec i s =
      .next (s1.setSr { s.sr with z := !d.toNat.testBit (bn % bitCount (bitSize dst)) }) := by
  have hc := Consults.composes.trans _ _ _ h0 (readEa_consults hr)
  rw [he, ← hc.sr]
  exact finish_ok (hm.trans (run_bind_ok hr))

/-- `BCHG`, `BCLR`, `BSET` from the state in which the operand is resolved. -/
theorem changesBit_of {op : Word → Word → Word} {new : Bool → Bool} (hop : ChangesMasked op new)
    (he : exec i s = finish m s) (hm : m s = bitChange dst bn op s0) (h0 : Consults s s0) :
    ChangesBit i dst bn s s0 new := by
  intro s1 loc hr k d r s2 hw
  have hc := (Consults.composes.trans _ _ _ h0 (resolve_consults hr)).read (loc := loc) (sz := bitSize dst)
  have hval : op d (bitMask k) = r := hop.bitMask_eq d k
  rw [← hval, ← hc.sr] at hw
  rw [he]
  exact finish_ok (hm.trans ((run_bind_ok hr).trans ((run_bind_ok (run_readLoc _ _ _)).trans
    ((run_bind_ok (run_setFlags _ _)).trans hw))))
end

/-- The two forms run the same operation, after taking the number from the next word or from a register. -/
theorem bitOperation_of {st : Ea → Instr} {dyn : Reg → Ea → Instr} {op : Word → Word → Word} {new : Bool → Bool}
    (hop : ChangesMasked op new)
    (hst : ∀ dst s, exec (st dst) s = finish (staticBit >>= fun bn => bitChange dst bn op) s)
    (hdyn : ∀ n dst s, exec (dyn n dst) s = finish (dynamicBit n >>= fun bn => bitChange dst bn op) s) :
    BitOperation st dyn new :=
  ⟨fun s dst _ => changesBit_of hop (hst dst s) (run_staticBit_bind _ s) (Consults.fetch s),
    fun s n dst _ => changesBit_of hop (hdyn n dst s) (run_dynamicBit_bind n _ s) (Consults.composes.refl s)⟩

theorem exec_btstImm (dst : Ea) (s : State) :
    exec (.btstImm dst) s = finish (staticBit >>= fun bn => bitTest dst bn) s := rfl

theorem exec_btstReg (n : Reg) (dst : Ea) (s : State) :
    exec (.btstReg n dst) s = finish (dynamicBit n >>= fun bn => bitTest dst bn) s := rfl

/-- Settles O44: each form takes its bit number, and `ChangesMasked.bitMask_eq` gives the operand with that bit replaced. -/
theorem bitResults : Obligations.BitResults := by
  unfold Obligations.BitResults
  refine ⟨fun s s1 dst d _ hr => ?static, fun s s1 n dst d _ hr => ?dynamic,
    bitOperation_of xor_changesMasked (fun _ _ => rfl) fun _ _ _ => rfl,
    bitOperation_of andNot_changesMasked (fun _ _ => rfl) fun _ _ _ => rfl,
    bitOperation_of or_changesMasked (fun _ _ => rfl) fun _ _ _ => rfl⟩
  case static => exact exec_bitTest (exec_btstImm dst s) (run_staticBit_bind _ s) (Consults.fetch s) hr
  case dynamic => exact exec_bitTest (exec_btstReg n dst s) (run_dynamicBit_bind n _ s) (Consults.composes.refl s) hr

end
end Sys2Proof.Machine

namespace Sys2Proof.Machine

/-! # Binary-coded decimals

A byte of two decimal digits and the number it stands for, then the ending that `ABCD`, `SBCD` and `NBCD` share: with decimal
operands it gives the result and its carry, with others nothing but free values. -/

section
open Claims

/-! ## Two decimal digits in a byte (45 R289) -/

theorem bcdOf_eq_packed (t : Nat) : bcdOf t = packed t := by rw [bcdOf, packed, Nat.mul_comm]

theorem packed_toNat {t : Nat} (h : t < 100) : (packed t).toNat = t / 10 * 16 + t % 10 := by
  rw [packed, BitVec.toNat_ofNat]
  omega

theorem validBcd_packed {t : Nat} (h : t < 100) : validBcd (packed t) = true := by
  rw [validBcd, packed_toNat h, Bool.and_eq_true, decide_eq_true_iff, decide_eq_true_iff]
  omega

theorem decOf_packed {t : Nat} (h : t < 100) : decOf (packed t) = t := by
  rw [decOf, packed_toNat h]
  omega

theorem packed_beq_zero {t : Nat} (h : t < 100) : (packed t == 0) = decide (t = 0) := by
  show decide (packed t = 0) = decide (t = 0)
  rw [decide_eq_decide, ← BitVec.toNat_inj, packed_toNat h]
  show t / 10 * 16 + t % 10 = 0 ↔ t = 0
  omega

theorem validBcd_of_notDecimal {v : Word} (h : notDecimal v) : validBcd v = false := by
  obtain ⟨hv, hdigit⟩ := h
  rw [validBcd, Bool.and_eq_false_iff, decide_eq_false_iff_not, decide_eq_false_iff_not]
  omega

/-! ## The shared ending -/

section
variable {loc : Loc} {t : Int} {carry : Bool} {s s1 : State}

/-- On decimals `N` and `V` are the next two free values. -/
theorem run_bcdFinish_valid {s2 : State}
    (hw : writeLoc loc .b (packed (t % 100).toNat) { s1 with draws := s1.draws + 2 } = .ok () s2) :
    bcdFinish loc true t carry s1 = .ok () (s2.setSr { s1.sr with
      x := carry, n := Config.freeBit s1.draws, z := s1.sr.z && decide (t % 100 = 0),
      v := Config.freeBit (s1.draws + 1), c := carry }) := by
  have hz : (packed (t % 100).toNat == 0) = decide (t % 100 = 0) := by
    rw [packed_beq_zero (by omega), decide_eq_decide]
    omega
  rw [← hz, ← show s2.sr = s1.sr from (writeLoc_sr hw :)]
  rw [← bcdOf_eq_packed] at hw ⊢
  exact (run_bind_ok (run_drawBit _)).trans ((run_bind_ok (run_drawBit _)).trans (run_bind_ok hw))

/-- On an operand that is no decimal the byte and the five flags are the next six free values. -/
theorem run_bcdFinish_invalid {s2 : State}
    (hw : writeLoc loc .b ((Config.freeByte (s1.draws + 2)).setWidth 32) { s1 with draws := s1.draws + 6 } = .ok () s2) :
    bcdFinish loc false t carry s1 = .ok () (s2.setSr { s1.sr with
      x := Config.freeBit (s1.draws + 3), n := Config.freeBit s1.draws, z := Config.freeBit (s1.draws + 4),
      v := Config.freeBit (s1.draws + 1), c := Config.freeBit (s1.draws + 5) }) := by
  rw [← show s2.sr = s1.sr from (writeLoc_sr hw :)]
  exact (run_bind_ok (run_drawBit _)).trans ((run_bind_ok (run_drawBit _)).trans ((run_bind_ok (run_drawByte _)).trans
    ((run_bind_ok (run_drawBit _)).trans ((run_bind_ok (run_drawBit _)).trans ((run_bind_ok (run_drawBit _)).trans
      (run_bind_ok hw))))))

/-- The instruction ends as `bcdFinish` does from the state in which its operands have been read. -/
def EndsDecimal (i : Instr) (s s1 : State) (loc : Loc) (valid : Bool) (t : Int) (carry : Bool) : Prop :=
  ∀ u, bcdFinish loc valid t carry s1 = .ok () u → exec i s = .next u

variable {i : Instr} {valid : Bool}

theorem EndsDecimal.decimalResult (h : EndsDecimal i s s1 loc valid t carry) (hs : Consults s s1) (hvalid : valid = true)
    (hcarry : carry = decide (t < 0 ∨ 99 < t)) : DecimalResult i s s1 loc t := by
  subst hvalid hcarry
  intro s2 hw
  rw [← hs.sr]
  exact ⟨_, _, h _ (run_bcdFinish_valid hw)⟩

theorem EndsDecimal.decimalOpen (h : EndsDecimal i s s1 loc valid t carry) (hs : Consults s s1) (hvalid : valid = false) :
    DecimalOpen i s s1 loc := by
  subst hvalid
  intro hwrites
  obtain ⟨u, hw⟩ := hwrites (Config.freeByte (s1.draws + 2))
  rw [← hs.sr]
  exact ⟨_, u, _, _, _, _, _, hw, h _ (run_bcdFinish_invalid hw)⟩
end

/-! ## The operands -/

theorem moves_pairOperands (sz : Size) (x : Reg) (m : PairMode) (y : Reg) : Moves Consults (pairOperands sz x m y) := by
  have read (l : Loc) : Moves Consults (readLoc l sz) := fun s => Consults.readLocFrom s l sz
  cases m with
  | regs =>
    exact Moves.bind Consults.composes (Moves.look Consults.composes _) fun _ =>
      Moves.bind Consults.composes (read _) fun _ => Moves.pure Consults.composes _
  | predec =>
    exact Moves.bind Consults.composes (moves_readEa _ sz) fun _ =>
      Moves.bind Consults.composes (moves_resolve _ sz) fun _ =>
        Moves.bind Consults.composes (read _) fun _ => Moves.pure Consults.composes _

/-- `A7` steps by 2 so that it stays even (30_encoding R133). -/
theorem stepOf_byte (n : Reg) : stepOf .b n = if n = 7 then 2 else 1 := by
  have h7 : n.val = 7 ↔ n = 7 := (Fin.ext_iff (b := 7)).symm
  simp only [stepOf, h7, Config.a7ByteStep]
  rfl

theorem run_resolve_predec_byte (n : Reg) (s : State) :
    resolve (.predec n) .b s = .ok (.mem (s.areg n - if n = 7 then 2 else 1))
      (s.setA n (s.areg n - if n = 7 then 2 else 1)) := by
  rw [← stepOf_byte]
  rfl

/-! ## The instructions (45 R290 to R292) -/

section
variable {s s1 : State} {x y : Reg} {m : PairMode} {loc : Loc}

section
variable {v d : Word} (h : pairOperands .b x m y s = .ok (v, loc, d) s1)
include h

theorem abcd_endsDecimal : EndsDecimal (.abcd x m y) s s1 loc (validBcd v && validBcd d)
    ((decOf v + decOf d + bitNat s.sr.x : Nat) : Int) (decide (99 < decOf v + decOf d + bitNat s.sr.x)) := by
  intro u hu
  rw [← ((moves_pairOperands .b x m y).ok h).sr] at hu
  exact finish_ok (m := pairOperands .b x m y >>= _) ((run_bind_ok h).trans ((run_bind_ok (run_look _ _)).trans hu))

theorem sbcd_endsDecimal : EndsDecimal (.sbcd x m y) s s1 loc (validBcd v && validBcd d)
    ((decOf d : Int) - decOf v - bitNat s.sr.x) (decide ((decOf d : Int) - decOf v - bitNat s.sr.x < 0)) := by
  intro u hu
  rw [← ((moves_pairOperands .b x m y).ok h).sr] at hu
  exact finish_ok (m := pairOperands .b x m y >>= _) ((run_bind_ok h).trans ((run_bind_ok (run_look _ _)).trans hu))

theorem pair_decimalOpen (hvd : notDecimal v ∨ notDecimal d) :
    DecimalOpen (.abcd x m y) s s1 loc ∧ DecimalOpen (.sbcd x m y) s s1 loc := by
  have hs := (moves_pairOperands .b x m y).ok h
  have hvalid : (validBcd v && validBcd d) = false := by
    rw [Bool.and_eq_false_iff]
    exact hvd.imp validBcd_of_notDecimal validBcd_of_notDecimal
  exact ⟨(abcd_endsDecimal h).decimalOpen hs hvalid, (sbcd_endsDecimal h).decimalOpen hs hvalid⟩
end

theorem pair_decimalResult {p q : Nat} (hp : p < 100) (hq : q < 100)
    (h : pairOperands .b x m y s = .ok (packed p, loc, packed q) s1) :
    DecimalResult (.abcd x m y) s s1 loc (q + p + bitNat s.sr.x) ∧
      DecimalResult (.sbcd x m y) s s1 loc ((q : Int) - p - bitNat s.sr.x) := by
  have hs := (moves_pairOperands .b x m y).ok h
  have hvalid : (validBcd (packed p) && validBcd (packed q)) = true := by
    rw [validBcd_packed hp, validBcd_packed hq, Bool.and_true]
  have hadd := abcd_endsDecimal h
  have hsub := sbcd_endsDecimal h
  rw [decOf_packed hp, decOf_packed hq] at hadd hsub
  have hsum : ((p + q + bitNat s.sr.x : Nat) : Int) = q + p + bitNat s.sr.x := by omega
  rw [hsum] at hadd
  refine ⟨hadd.decimalResult hs hvalid ?carry, hsub.decimalResult hs hvalid ?borrow⟩
  case carry => rw [decide_eq_decide]; omega
  case borrow => rw [decide_eq_decide]; omega

theorem nbcd_endsDecimal {dst : Ea} (h : resolve dst .b s = .ok loc s1) :
    EndsDecimal (.nbcd dst) s (readLocFrom s1 loc .b).2 loc (validBcd (readLocFrom s1 loc .b).1)
      (0 - (decOf (readLocFrom s1 loc .b).1 : Int) - bitNat s.sr.x)
      (decide (0 - (decOf (readLocFrom s1 loc .b).1 : Int) - bitNat s.sr.x < 0)) := by
  intro u hu
  rw [← ((resolve_consults h).read (loc := loc) (sz := .b)).sr] at hu
  exact finish_ok (m := resolve dst .b >>= _) ((run_bind_ok h).trans ((run_bind_ok (run_readLoc _ _ _)).trans
    ((run_bind_ok (run_look _ _)).trans hu)))

theorem nbcd_decimalResult {dst : Ea} {q : Nat} (hq : q < 100) (h : resolve dst .b s = .ok loc s1)
    (hd : (readLocFrom s1 loc .b).1 = packed q) :
    DecimalResult (.nbcd dst) s (readLocFrom s1 loc .b).2 loc (0 - (q : Int) - bitNat s.sr.x) := by
  have hneg := nbcd_endsDecimal h
  rw [hd, decOf_packed hq] at hneg
  refine hneg.decimalResult (resolve_consults h).read (validBcd_packed hq) ?_
  rw [decide_eq_decide]
  omega
end

/-- Settles O45: each instruction reads its operands and ends in `bcdFinish`, whose two endings are those of R289. -/
theorem decimalResults : Obligations.DecimalResults := by
  unfold Obligations.DecimalResults
  refine ⟨fun s s1 x y m loc p q hp hq h => pair_decimalResult hp hq h,
    fun s s1 x y m loc v d hvd h => pair_decimalOpen h hvd,
    fun s s1 dst loc q _ hq h hd => nbcd_decimalResult hq h hd,
    fun s s1 dst loc _ h hd => (nbcd_endsDecimal h).decimalOpen (resolve_consults h).read (validBcd_of_notDecimal hd),
    fun s x y => rfl, fun s s1 s2 x y v loc hv hr => run_pairOperands_predec hv hr,
    ?memory⟩
  case memory =>
    intro s s1 x y v d a b hv hd
    have hread : readEa (.predec y) .b s = .ok v s1 := by
      rw [run_readEa (run_resolve_predec_byte y s), readLocFrom_mem, hv]
    rw [run_pairOperands_predec hread (run_resolve_predec_byte x s1), readLocFrom_mem, hd]

end
end Sys2Proof.Machine

namespace Sys2Proof.Machine

/-! # Program control

The displacement of a branch, the count of `DBcc` and the pops of `RTS` and `RTR` once each, then one equation per
instruction. -/

section
open Claims

/-! ## The displacement of a branch (30_encoding R146) -/

/-- Two words are the high and the low half of a long word. -/
theorem append_halves (hi lo : Half) : hi ++ lo = BitVec.ofNat 32 (hi.toNat * 0x10000 + lo.toNat) := by
  simpa only [BitVec.ofNat_toNat, BitVec.setWidth_eq] using append_ofNat hi.toNat lo.isLt

theorem run_branchDisp (d : Byte) (s : State) : branchDisp d s = .ok (branchWords d s).1 (branchWords d s).2 := by
  unfold branchDisp branchWords
  split
  · rfl
  · split
    · rw [← append_halves]
      rfl
    · rfl

theorem branchWords_sr (d : Byte) (s : State) : (branchWords d s).2.sr = s.sr := by
  unfold branchWords
  split
  · exact after1_sr s
  · split
    · exact (after1_sr _).trans (after1_sr s)
    · rfl

theorem branchWords_sp (d : Byte) (s : State) : (branchWords d s).2.sp = s.sp :=
  (branchDisp_follows d).areg (run_branchDisp d s) 7

/-! ## `BRA`, `Bcc`, `BSR` (46 R300 to R302) -/

theorem exec_bra (d : Byte) (s : State) :
    exec (.bra d) s = .next ((branchWords d s).2.setPc (s.pc + (branchWords d s).1)) :=
  finish_ok (m := look _ >>= _) ((run_bind_ok (run_look _ s)).trans (run_bind_ok (run_branchDisp d s)))

theorem exec_bcc (c : Cond) (d : Byte) (s : State) : exec (.bcc c d) s = .next
    (if s.sr.holds c then (branchWords d s).2.setPc (s.pc + (branchWords d s).1) else (branchWords d s).2) := by
  rw [← branchWords_sr d s]
  refine finish_ok (m := look _ >>= _) ((run_bind_ok (run_look _ s)).trans ((run_bind_ok (run_branchDisp d s)).trans
    ((run_bind_ok (run_look _ _)).trans ?_)))
  split
  · rfl
  · rfl

theorem exec_bsr {d : Byte} {s t : State}
    (h : memWrite ((branchWords d s).2.setSp (s.sp - 4)) (s.sp - 4) .l (branchWords d s).2.pc = .ok t) :
    exec (.bsr d) s = .next (t.setPc (s.pc + (branchWords d s).1)) := by
  rw [← branchWords_sp d s] at h
  exact finish_ok (m := look _ >>= _) ((run_bind_ok (run_look _ s)).trans ((run_bind_ok (run_branchDisp d s)).trans
    ((run_bind_ok (run_look _ _)).trans (run_bind_ok (run_push_ok h)))))

/-! ## `DBcc` (46 R304) -/

/-- The low word of `v`, counted down. -/
def countedDown (v : Word) : Half := v.setWidth 16 - 1

theorem countedDown_eq_top_iff (v : Word) : countedDown v = 0xFFFF ↔ v.toNat % 0x10000 = 0 := by
  unfold countedDown
  bv_omega

theorem countedDown_setWidth {v : Word} (h : v.toNat % 0x10000 ≠ 0) :
    (countedDown v).setWidth 32 = BitVec.ofNat 32 (v.toNat % 0x10000 - 1) := by
  unfold countedDown
  bv_omega

/-- A fetch in the words of the claims. -/
theorem run_fetch16_words (s : State) : fetch16 s = .ok (word1 s) (after1 s) := rfl

/-- The word after the first word is fetched whatever the condition; the loop is left when the count passes 0. -/
theorem exec_dbcc (c : Cond) (n : Reg) (s : State) : exec (.dbcc c n) s = .next
    (if s.sr.holds c then after1 s
     else if countedDown (s.dreg n) = 0xFFFF then (after1 s).writeD n .w ((countedDown (s.dreg n)).setWidth 32)
     else ((after1 s).writeD n .w ((countedDown (s.dreg n)).setWidth 32)).setPc
      (s.pc + BitVec.ofInt 32 (word1 s).toInt)) := by
  rw [← after1_sr, ← after1_dreg]
  refine finish_ok (m := look _ >>= _) ((run_bind_ok (run_look _ s)).trans ((run_bind_ok (run_fetch16_words s)).trans
    ((run_bind_ok (run_look _ _)).trans ?_)))
  split
  · rfl
  · refine (run_bind_ok (run_look _ _)).trans ((run_bind_ok (run_change _ _)).trans ?_)
    unfold countedDown
    split
    · rfl
    · rfl

/-- Settles O46: one equation per branch, that of `DBcc` split as its own cases are. -/
theorem branchResults : Obligations.BranchResults := by
  unfold Obligations.BranchResults
  refine ⟨fun s d => exec_bra d s, fun s c d => exec_bcc c d s, fun s t d h => exec_bsr h,
    fun s c n => ⟨fun h => ?holds, fun h h0 => ?expired, fun h h0 => ?taken⟩⟩
  case holds => rw [exec_dbcc, if_pos h]
  case expired =>
    have hk := (countedDown_eq_top_iff _).mpr h0
    rw [exec_dbcc, if_neg (ne_true_of_eq_false h), if_pos hk, hk]
    rfl
  case taken =>
    have hk := mt (countedDown_eq_top_iff _).mp h0
    rw [exec_dbcc, if_neg (ne_true_of_eq_false h), if_neg hk, countedDown_setWidth h0]

/-! ## `JMP`, `JSR` (46 R306, R307) -/

section
variable {dst : Ea} {s s1 t : State} {a : Word}

theorem exec_jmp (h : resolve dst .l s = .ok (.mem a) s1) : exec (.jmp dst) s = .next (s1.setPc a) :=
  finish_ok (m := resolveAddress dst .l >>= _) (run_bind_ok (run_resolveAddress h))

theorem exec_jsr (hc : dst.isControl = true) (hr : resolve dst .l s = .ok (.mem a) s1)
    (h : memWrite (s1.setSp (s.sp - 4)) (s.sp - 4) .l s1.pc = .ok t) : exec (.jsr dst) s = .next (t.setPc a) := by
  have ha := run_resolveAddress hr
  rw [← resolveAddress_sp hc ha] at h
  exact finish_ok (m := resolveAddress dst .l >>= _) ((run_bind_ok ha).trans ((run_bind_ok (run_look _ _)).trans
    (run_bind_ok (run_push_ok h))))
end

/-! ## Pops and the flags -/

theorem memRead_sp (s : State) (a : Word) (sz : Size) : (memRead s a sz).2.sp = s.sp := by
  rw [memRead_keeps]
  rfl

/-- A pop, by the stack pointer before it. -/
theorem run_pop_sp (sz : Size) (s : State) :
    pop sz s = .ok (memRead s s.sp sz).1 ((memRead s s.sp sz).2.setSp (s.sp + BitVec.ofNat 32 (byteCount sz))) := by
  rw [run_pop, memRead_sp]

theorem memRead_setSr (s : State) (f : Status) (a : Word) (sz : Size) :
    memRead (s.setSr f) a sz = ((memRead s a sz).1, (memRead s a sz).2.setSr f) := by
  rw [memRead_of_devices (s.setSr_ram f) (s.setSr_psg f) (s.setSr_mfp f) (s.setSr_dac f)]
  conv_rhs => rw [memRead_keeps]
  rfl

theorem memRead_sr (s : State) (a : Word) (sz : Size) : (memRead s a sz).2.sr = s.sr :=
  (Consults.memRead s a sz).sr

/-- The flags do not take part in the choice of the stack pointer (10_state R24). -/
theorem State.setSp_setCcr (s : State) (w : Half) (v : Word) :
    (s.setSr (s.sr.withCcr w)).setSp v = (s.setSp v).setSr (s.sr.withCcr w) := by
  unfold State.setSp
  rw [apply_ite (State.setSr · _), apply_ite (State.setSr · _)]
  rfl

/-- Flags set before a pop can be set after it. -/
theorem run_pop_setCcr (sz : Size) (s : State) (w : Half) : pop sz (s.setSr (s.sr.withCcr w)) =
    .ok (memRead s s.sp sz).1
      (((memRead s s.sp sz).2.setSp (s.sp + BitVec.ofNat 32 (byteCount sz))).setSr (s.sr.withCcr w)) := by
  have hsp : (s.setSr (s.sr.withCcr w)).sp = s.sp := rfl
  rw [run_pop_sp, hsp, memRead_setSr, ← memRead_sr s s.sp sz, State.setSp_setCcr]

/-! ## `RTS`, `RTR` (46 R309, R310) -/

theorem exec_rts (s : State) :
    exec .rts s = .next (((memRead s s.sp .l).2.setSp (s.sp + 4)).setPc (memRead s s.sp .l).1) :=
  finish_ok (m := pop .l >>= fun pc => change fun s => s.setPc pc) (run_bind_ok (run_pop_sp .l s))

/-- `RTR` pops a word, then a long word above it. -/
theorem exec_rtr {s s1 s2 : State} {w p : Word} (hw : memRead s s.sp .w = (w, s1))
    (hp : memRead s1 (s.sp + 2) .l = (p, s2)) :
    exec .rtr s = .next (((s2.setSp (s.sp + 6)).setSr (s.sr.withCcr (w.setWidth 16))).setPc p) := by
  have hpopw : pop .w s = .ok w (s1.setSp (s.sp + 2)) := by
    rw [run_pop_sp, hw]
    rfl
  have hsr : (s1.setSp (s.sp + 2)).sr = s.sr := by rw [State.setSp_sr, ← memRead_sr s s.sp .w, hw]
  have hpopl := run_pop_setCcr .l (s1.setSp (s.sp + 2)) (w.setWidth 16)
  rw [State.sp_setSp, memRead_setSp, hp, State.setSp_setSp, BitVec.add_assoc] at hpopl
  rw [← hsr]
  exact finish_ok (m := pop .w >>= fun w => setFlags (fun f => f.withCcr (w.setWidth 16)) >>= fun _ => pop .l >>= fun pc =>
    change fun s => s.setPc pc) ((run_bind_ok hpopw).trans ((run_bind_ok (run_setFlags _ _)).trans (run_bind_ok hpopl)))

/-! ## `NOP`, and `TRAPV` and `CHK` without a trap (46 R308, 47 R341, R342) -/

theorem exec_nop (s : State) : exec .nop s = .next s := rfl

theorem exec_trapv {s : State} (h : s.sr.v = false) : exec .trapv s = .next s := by
  refine finish_ok (m := look _ >>= _) ((run_bind_ok (run_look _ s)).trans ?_)
  rw [if_neg (ne_true_of_eq_false h)]
  rfl

/-- Within bounds `CHK` leaves four free flags (93 U4). -/
theorem exec_chk {n : Reg} {src : Ea} {s s1 : State} {b : Word} (hr : readEa src .w s = .ok b s1)
    (h0 : 0 ≤ signedOf .w (trunc .w (s.dreg n))) (hb : signedOf .w (trunc .w (s.dreg n)) ≤ signedOf .w b) :
    exec (.chk n src) s = .next ({ s1 with draws := s1.draws + 4 }.setSr { s.sr with
      n := Config.freeBit (s1.draws + 3), z := Config.freeBit s1.draws, v := Config.freeBit (s1.draws + 1),
      c := Config.freeBit (s1.draws + 2) }) := by
  have hc := readEa_consults hr
  rw [← signed16_eq, ← hc.dreg] at h0 hb
  rw [← trunc_of_lt (readEa_lt hr), ← signed16_eq] at hb
  rw [← hc.sr]
  refine finish_ok (m := readEa src .w >>= _) ((run_bind_ok hr).trans ((run_bind_ok (run_look _ _)).trans
    ((run_bind_ok (run_drawBit _)).trans ((run_bind_ok (run_drawBit _)).trans ((run_bind_ok (run_drawBit _)).trans
      ((run_bind_ok (run_setFlags _ _)).trans ?_))))))
  rw [if_neg (Int.not_lt.mpr h0), if_neg (Int.not_lt.mpr hb)]
  exact (run_bind_ok (run_drawBit _)).trans (run_setFlags _ _)

/-- Settles O47: one equation per instruction; the free flags of `CHK` are the model's own draws. -/
theorem jumpsAndReturns : Obligations.JumpsAndReturns := by
  unfold Obligations.JumpsAndReturns
  exact ⟨fun s s1 dst a hwf hr => ⟨exec_jmp hr, fun t h => exec_jsr hwf hr h⟩, exec_rts,
    fun s s1 s2 w p hw hp => by rw [exec_rtr hw hp, withCcr_setWidth], exec_nop, fun s h => exec_trapv h,
    fun s s1 n src b _ hr h0 hb => ⟨_, _, _, _, exec_chk hr h0 hb⟩⟩

end
end Sys2Proof.Machine

namespace Sys2Proof.Machine

/-! # The base cycle

The lines of `CPU.Step()` (60 R401) one by one, and the device phases (64 R610), which leave the CPU and RAM alone. -/

section
open Claims

/-! ## The device phases -/

/-- The device phases change the devices and their clocks. -/
theorem devicePhases_keeps (s : State) : devicePhases s =
    { s with
      psg := (devicePhases s).psg, psgClock := (devicePhases s).psgClock
      mfp := (devicePhases s).mfp, mfpClock := (devicePhases s).mfpClock
      dac := (devicePhases s).dac, dacClock := (devicePhases s).dacClock } := by
  unfold devicePhases dacPhase
  simp only
  split <;> rfl

/-! ## The lines of the CPU step (60 R401) -/

section
variable {s t : State} {r : Refusal}

theorem step_of_next (h : cpuStepFrom { s with trap := false } = .next t) : step s = .next (devicePhases t) := by
  rw [step, baseCycle, cpuStep, h]

theorem step_of_refused (h : cpuStepFrom { s with trap := false } = .refused r) : step s = .refused r := by
  rw [step, baseCycle, cpuStep, h]

theorem levelAccepted_iff (level mask : BitVec 3) :
    levelAccepted level mask = true ↔ mask.toNat < level.toNat ∨ level = 7 := by
  simp only [levelAccepted, Bool.or_eq_true, decide_eq_true_eq, beq_iff_eq]

theorem Mfp.line_iff (m : Mfp) : m.line = true ↔ m.ipr &&& m.imr ≠ 0 := by
  simp only [Mfp.line, Bool.not_eq_true', decide_eq_false_iff_not, ne_eq]

theorem interruptDue_iff (s : State) : s.interruptDue = true ↔ requested s := by
  rw [State.interruptDue, Bool.and_eq_true, Mfp.line_iff, levelAccepted_iff, requested]

theorem waiting_iff (s : State) : s.waiting = true ↔ s.stopped = true ∨ s.pc = s.params.hostReturnAddress := by
  rw [State.waiting, Bool.or_eq_true, beq_iff_eq]

theorem cpuStepFrom_of_fault {f : Fault} (hf : s.fault = some f) : cpuStepFrom s = .next s := by
  rw [cpuStepFrom, hf]
  rfl

theorem cpuStepFrom_of_requested (hf : s.fault = none) (hr : requested s) : cpuStepFrom s = finish acceptInterrupt s := by
  rw [cpuStepFrom, hf, (interruptDue_iff s).mpr hr]
  rfl

theorem cpuStepFrom_of_not_requested (hf : s.fault = none) (hr : ¬ requested s) :
    cpuStepFrom s = if s.waiting then .next s else instructionStep s := by
  rw [cpuStepFrom, hf, eq_false_of_ne_true ((interruptDue_iff s).not.mpr hr)]
  rfl

theorem cpuStepFrom_of_waiting (hf : s.fault = none) (hr : ¬ requested s)
    (hw : s.stopped = true ∨ s.pc = s.params.hostReturnAddress) : cpuStepFrom s = .next s := by
  rw [cpuStepFrom_of_not_requested hf hr, if_pos ((waiting_iff s).mpr hw)]

theorem cpuStepFrom_of_running (hf : s.fault = none) (hr : ¬ requested s) (hs : s.stopped = false)
    (hp : s.pc ≠ s.params.hostReturnAddress) : cpuStepFrom s = instructionStep s := by
  have hw : ¬ (s.stopped = true ∨ s.pc = s.params.hostReturnAddress) := by simp [hs, hp]
  rw [cpuStepFrom_of_not_requested hf hr, if_neg ((waiting_iff s).not.mpr hw)]

/-- Where a word decodes, `T` decides whether its instruction runs (60 R431). -/
theorem instructionStep_of_decode {i : Instr} (h : decode (fetchWord s).1 = .ok i) :
    instructionStep s = if s.sr.t then .refused .traceUnspecified else exec i (fetchWord s).2 := by
  rw [instructionStep, h, ← (Consults.fetch s).sr]

theorem fetchWord_pc (s : State) : (fetchWord s).2.pc = s.pc + 2 := by
  obtain ⟨_, _, _, h⟩ := fetchWord_state s
  rw [h]
end

/-- Settles O5: the running CPU's step is `instructionStep`, which `T` decides. -/
theorem stepRunsInstruction : Obligations.StepRunsInstruction := by
  unfold Obligations.StepRunsInstruction
  intro s i hf hr hs hp hd
  have hrun : cpuStepFrom { s with trap := false } =
      if s.sr.t then .refused .traceUnspecified else exec i (fetchWord { s with trap := false }).2 :=
    (cpuStepFrom_of_running (s := { s with trap := false }) hf hr hs hp).trans (instructionStep_of_decode hd)
  refine ⟨fun ht t he => step_of_next ?_, fun ht r he => step_of_refused ?_, fun ht => step_of_refused ?_,
    fetchWord_pc { s with trap := false }⟩
  · rw [hrun, ht, ← he]
    rfl
  · rw [hrun, ht, ← he]
    rfl
  · rw [hrun, ht]
    rfl

/-- Settles O8: line 3 of the step. -/
theorem waitingFetchesNothing : Obligations.WaitingFetchesNothing := by
  unfold Obligations.WaitingFetchesNothing
  exact fun s hf hr hw => step_of_next (cpuStepFrom_of_waiting (s := { s with trap := false }) hf hr hw)

/-! ## A latched fault (60 R420) -/

/-- The CPU's registers, RAM and the latched fault are the same. -/
structure CpuKept (s t : State) : Prop where
  fault : t.fault = s.fault
  d : t.d = s.d
  a : t.a = s.a
  usp : t.usp = s.usp
  ssp : t.ssp = s.ssp
  isp : t.isp = s.isp
  pc : t.pc = s.pc
  sr : t.sr = s.sr
  vbr : t.vbr = s.vbr
  stopped : t.stopped = s.stopped
  ram : t.ram = s.ram

theorem CpuKept.refl (s : State) : CpuKept s s := ⟨rfl, rfl, rfl, rfl, rfl, rfl, rfl, rfl, rfl, rfl, rfl⟩

theorem CpuKept.trans {s t u : State} (h : CpuKept s t) (h' : CpuKept t u) : CpuKept s u where
  fault := h'.fault.trans h.fault
  d := h'.d.trans h.d
  a := h'.a.trans h.a
  usp := h'.usp.trans h.usp
  ssp := h'.ssp.trans h.ssp
  isp := h'.isp.trans h.isp
  pc := h'.pc.trans h.pc
  sr := h'.sr.trans h.sr
  vbr := h'.vbr.trans h.vbr
  stopped := h'.stopped.trans h.stopped
  ram := h'.ram.trans h.ram

theorem step_of_fault {s : State} {f : Fault} (hf : s.fault = some f) : ∃ t, step s = .next t ∧ CpuKept s t := by
  refine ⟨_, step_of_next (cpuStepFrom_of_fault (s := { s with trap := false }) hf), ?_⟩
  rw [devicePhases_keeps]
  exact { CpuKept.refl s with }

/-- A run is a function of its start. -/
theorem Runs.unique {k : Nat} {s t u : State} (ht : Runs k s t) (hu : Runs k s u) : u = t := by
  induction k generalizing s with
  | zero => exact hu.symm.trans ht
  | succ k ih =>
    obtain ⟨t1, et, ht⟩ := ht
    obtain ⟨u1, eu, hu⟩ := hu
    rw [et] at eu
    cases eu
    exact ih ht hu

/-- With a fault latched every base cycle goes on, and none changes the CPU. -/
theorem runs_of_fault {s : State} {f : Fault} (k : Nat) (hf : s.fault = some f) : ∃ t, Runs k s t ∧ CpuKept s t := by
  induction k generalizing s with
  | zero => exact ⟨s, rfl, .refl s⟩
  | succ k ih =>
    obtain ⟨u, hu, hk⟩ := step_of_fault hf
    obtain ⟨t, ht, hk'⟩ := ih (hk.fault.trans hf)
    exact ⟨t, ⟨u, hu, ht⟩, hk.trans hk'⟩

/-- Settles O7: by induction on the number of base cycles. -/
theorem faultIsSticky : Obligations.FaultIsSticky := by
  unfold Obligations.FaultIsSticky
  intro k s f hf
  obtain ⟨t, ht, h⟩ := runs_of_fault k hf
  have hfault : t.fault = some f := h.fault.trans hf
  have hvalid : t.validInsn = false := by rw [State.validInsn, hfault]; rfl
  exact ⟨t, ht, fun u hu => ht.unique hu, hfault, hvalid, h.d, h.a, h.usp, h.ssp, h.isp, h.pc, h.sr, h.vbr, h.stopped, h.ram⟩
end
end Sys2Proof.Machine

namespace Sys2Proof.Machine

/-! # Exceptions

Exception entry (60 R410) as the model runs it and, on a stack in RAM, as one state: the frame's three stores, the new
status word and stack pointer, and `PC` from the vector. -/

section
open Claims

/-! ## Entry through the bus -/

/-- A push that the bus takes at the new stack pointer. -/
theorem run_push_at {sz : Size} {v a : Word} {s t : State} (ha : s.sp - BitVec.ofNat 32 (byteCount sz) = a)
    (h : memWrite (s.setSp a) a sz v = .ok t) : push sz v s = .ok () t ∧ t.sp = a := by
  rw [run_push, ha]
  exact ⟨run_writeMem_ok h, (memWrite_sp h).trans (s.sp_setSp a)⟩

theorem entered_eq (f : Status) (k : ExceptionKind) : f.entered k = onEntry f k := by cases k <;> rfl

/-- A long word below `0x10000` is its low word, extended. -/
theorem frameWord_eq (vector : Byte) : (frameWord vector).setWidth 32 = formatWord vector := by
  have hv := vector.isLt
  have hm : 4 * vector.toNat % 0x1000 = 4 * vector.toNat := Nat.mod_eq_of_lt (by omega)
  have h16 : (BitVec.ofNat 16 (4 * vector.toNat)).setWidth 32 = BitVec.ofNat 32 (4 * vector.toNat) :=
    BitVec.eq_of_toNat_eq (by simp only [BitVec.toNat_setWidth, BitVec.toNat_ofNat]; omega)
  rw [frameWord, formatWord, BitVec.setWidth_or, h16, hm]
  rfl

theorem memWrite_vbr {s t : State} {a : Word} {sz : Size} {v : Word} (h : memWrite s a sz v = .ok t) : t.vbr = s.vbr := by
  rw [memWrite_frame h]

/-- `Entered` is what exception entry answers. -/
theorem exceptionEntry_of_entered {vector : Byte} {ret : Word} {k : ExceptionKind} {s t : State}
    (h : Entered vector ret k s t) : exceptionEntry vector ret k s = .ok () t := by
  obtain ⟨s1, s2, s3, h1, h2, h3, rfl⟩ := h
  have a2 : entrySp k s - 2 - BitVec.ofNat 32 (byteCount .l) = entrySp k s - 6 := BitVec.sub_sub _ _ _
  have a3 : entrySp k s - 6 - BitVec.ofNat 32 (byteCount .w) = entrySp k s - 8 := BitVec.sub_sub _ _ _
  obtain ⟨p1, sp1⟩ := run_push_at (s := s.setSr (onEntry s.sr k)) (a := entrySp k s - 2) rfl h1
  obtain ⟨p2, sp2⟩ := run_push_at (sp1.symm ▸ a2) h2
  obtain ⟨p3, -⟩ := run_push_at (sp2.symm ▸ a3) h3
  have v1 : s1.vbr = s.vbr := (memWrite_vbr h1).trans (State.setSp_vbr _ _)
  have v2 : s2.vbr = s.vbr := (memWrite_vbr h2).trans ((State.setSp_vbr _ _).trans v1)
  have v3 : s3.vbr = s.vbr := (memWrite_vbr h3).trans ((State.setSp_vbr _ _).trans v2)
  have hv : vectorAddress s3 vector = vectorSlot s vector := by rw [vectorAddress, v3, vectorSlot]
  rw [run_exceptionEntry, entered_eq, frameWord_eq, run_bind_ok p1, run_bind_ok p2, run_bind_ok p3,
    run_bind_ok (run_look _ _), run_bind_ok (run_readMem _ _ _), run_change, hv]

/-! ## Interrupts (60 R440, 61 R490) -/

theorem topChannel_eq {x : Half} {ch n : Nat} (hn : ch < n) (hc : x.getLsbD ch = true)
    (hj : ∀ j, ch < j → x.getLsbD j = false) : topChannel x n = some ch := by
  induction n with
  | zero => omega
  | succ n ih =>
    rw [topChannel]
    by_cases h : ch = n
    · rw [← h, if_pos hc]
    · rw [if_neg (by rw [hj n (by omega)]; decide), ih (by omega)]

/-- The highest pending and unmasked channel is reported and its bit cleared. -/
theorem Mfp.irqCause_eq {m : Mfp} {ch : Nat} (hch : ch < 16) (hc : (m.ipr &&& m.imr).getLsbD ch = true)
    (hj : ∀ j, ch < j → (m.ipr &&& m.imr).getLsbD j = false) : m.irqCause =
      ({ m with ipr := m.ipr &&& ~~~ channelBit ch }, (m.vr &&& 0xF0) ||| BitVec.ofNat 8 ch) := by
  rw [Mfp.irqCause, topChannel_eq hch hc hj]

/-- Settles O9: the interrupt comes before the wait and the fetch, with the vector `irqCause` gives. -/
theorem interruptIsTaken : Obligations.InterruptIsTaken := by
  unfold Obligations.InterruptIsTaken
  intro s t ch hf hr hc hj he
  refine step_of_next ((cpuStepFrom_of_requested (s := { s with trap := false }) hf hr).trans (finish_ok ?_))
  rw [run_acceptInterrupt]
  show exceptionEntry s.mfp.irqCause.2 s.pc _ { s with trap := false, mfp := s.mfp.irqCause.1 } = _
  rw [Mfp.irqCause_eq ch.isLt hc hj]
  exact exceptionEntry_of_entered he

/-! ## Addresses of the frame -/

theorem busAddr_sub {a : Word} {k : Nat} (hk : k ≤ busAddr a) : busAddr (a - BitVec.ofNat 32 k) = busAddr a - k := by
  unfold busAddr Config.addrBits at *
  rw [BitVec.toNat_sub, BitVec.toNat_ofNat]
  omega

theorem busAddr_add {a : Word} {k : Nat} (hk : busAddr a + k < 0x1000000) :
    busAddr (a + BitVec.ofNat 32 k) = busAddr a + k := by
  unfold busAddr Config.addrBits at *
  rw [BitVec.toNat_add, BitVec.toNat_ofNat]
  omega

/-! ## The state after entry, on a stack in RAM -/

/-- RAM with the frame at offset `o`: the format word, `PC` and the status word (60 R410). -/
def framed (m : Memory) (o : Nat) (fmt ret sr : Word) : Memory :=
  ((m.store (o + 6) .w fmt).store (o + 2) .l ret).store o .w sr

section
variable {m : Memory} {o : Nat} {fmt ret sr : Word}

theorem framed_sr (h : o + 8 ≤ Config.ramSize) : (framed m o fmt ret sr).access o .w = trunc .w sr :=
  Memory.access_store _ _ .w sr (show o + 2 ≤ _ by omega)

theorem framed_ret (h : o + 8 ≤ Config.ramSize) : (framed m o fmt ret sr).access (o + 2) .l = ret := by
  have h4 : o + 2 + byteCount .l ≤ Config.ramSize := show o + 2 + 4 ≤ _ by omega
  rw [framed, Memory.access_store_other _ _ _ .w .l _ (.inr (le_refl (o + 2))), Memory.access_store _ _ .l ret h4]
  rfl

theorem framed_fmt (h : o + 8 ≤ Config.ramSize) : (framed m o fmt ret sr).access (o + 6) .w = trunc .w fmt := by
  have h2 : o + 6 + byteCount .w ≤ Config.ramSize := h
  rw [framed, Memory.access_store_other _ _ _ .w .w _ (.inr (show o + 2 ≤ o + 6 by omega)),
    Memory.access_store_other _ _ _ .l .w _ (.inr (le_refl (o + 6))), Memory.access_store _ _ .w fmt h2]

/-- Every byte outside the frame is left. -/
theorem framed_read {b : Nat} (h : b < o ∨ o + 8 ≤ b) : (framed m o fmt ret sr).read b = m.read b := by
  have hw : byteCount .w = 2 := rfl
  have hl : byteCount .l = 4 := rfl
  rw [framed, Memory.read_store, if_neg (by omega), Memory.read_store, if_neg (by omega), Memory.read_store,
    if_neg (by omega)]
end

/-- RAM after the entry. -/
def entryRam (vector : Byte) (ret : Word) (k : ExceptionKind) (s : State) : Memory :=
  framed s.ram (busAddr (entrySp k s) - 8) (formatWord vector) ret (s.sr.toWord.setWidth 32)

/-- The state after the entry. -/
def entryState (vector : Byte) (ret : Word) (k : ExceptionKind) (s : State) : State :=
  { (s.setSr (onEntry s.sr k)).setSp (entrySp k s - 8) with
    ram := entryRam vector ret k s
    pc := (entryRam vector ret k s).access (busAddr (vectorSlot s vector)) .l
    stopped := false
    trap := true }

theorem State.setSp_ramOf (s : State) (v : Word) (m : Memory) :
    ({ s with ram := m } : State).setSp v = { s.setSp v with ram := m } := by
  unfold State.setSp
  split <;> [(split <;> rfl); rfl]

/-- A store in RAM below the stack pointer, after another store and another stack pointer. -/
theorem memWrite_setSp_ram (s : State) (m : Memory) (a b : Word) (sz : Size) (v : Word) (h : busAddr b < Config.ramSize) :
    memWrite (({ s.setSp a with ram := m } : State).setSp b) b sz v =
      .ok { s.setSp b with ram := m.store (busAddr b) sz v } := by
  rw [memWrite_ram sz v h, State.setSp_ramOf, State.setSp_setSp]

section
variable {vector : Byte} {ret : Word} {k : ExceptionKind} {s t : State}

theorem entered_entryState (h : canEnter vector k s) : Entered vector ret k s (entryState vector ret k s) := by
  obtain ⟨h8, htop, hvec⟩ := h
  have e2 : busAddr (entrySp k s - 2) = busAddr (entrySp k s) - 8 + 6 :=
    (busAddr_sub (k := 2) (by omega)).trans (by omega)
  have e6 : busAddr (entrySp k s - 6) = busAddr (entrySp k s) - 8 + 2 :=
    (busAddr_sub (k := 6) (by omega)).trans (by omega)
  have e8 : busAddr (entrySp k s - 8) = busAddr (entrySp k s) - 8 := busAddr_sub (k := 8) h8
  refine ⟨_, _, _, memWrite_ram .w _ (by omega), memWrite_setSp_ram _ _ _ _ .l ret (by omega),
    memWrite_setSp_ram _ _ _ _ .w _ (by omega), ?_⟩
  rw [memRead_ram .l hvec, State.setSp_ram, e2, e6, e8]
  rfl

/-- On a stack in RAM the entry has one outcome. -/
theorem eq_entryState_of_entered (h : Entered vector ret k s t) (hc : canEnter vector k s) :
    t = entryState vector ret k s := by
  have e := exceptionEntry_of_entered h
  rw [exceptionEntry_of_entered (entered_entryState hc)] at e
  cases e
  rfl

theorem onEntry_s (f : Status) (k : ExceptionKind) : (onEntry f k).s = true := by cases k <;> rfl

theorem entryState_sr : (entryState vector ret k s).sr = onEntry s.sr k := State.setSp_sr _ _

theorem entryState_sp : (entryState vector ret k s).sp = entrySp k s - 8 := State.sp_setSp _ _

theorem setSp_usp {u : State} (hs : u.sr.s = true) (v : Word) : (u.setSp v).usp = u.usp :=
  u.setA_seven v ▸ setA_usp v (.inl hs)

theorem setSp_isp {u : State} (hm : u.sr.m = true) (v : Word) : (u.setSp v).isp = u.isp :=
  u.setA_seven v ▸ setA_isp v (.inr (.inl hm))

theorem setSp_ssp {u : State} (hm : u.sr.m = false) (v : Word) : (u.setSp v).ssp = u.ssp :=
  u.setA_seven v ▸ setA_ssp v (.inr (.inl hm))

theorem entryState_usp : (entryState vector ret k s).usp = s.usp := setSp_usp (onEntry_s s.sr k) _

theorem entryState_other_sp : if (onEntry s.sr k).m then (entryState vector ret k s).isp = s.isp
    else (entryState vector ret k s).ssp = s.ssp := by
  split
  · exact setSp_isp (u := s.setSr (onEntry s.sr k)) (by assumption) _
  · exact setSp_ssp (u := s.setSr (onEntry s.sr k)) (eq_false_of_ne_true (by assumption)) _

/-- Where the frame lies. -/
theorem entryState_busAddr_sp (hc : canEnter vector k s) {j : Nat} (hj : j ≤ 8) :
    busAddr ((entryState vector ret k s).sp + BitVec.ofNat 32 j) = busAddr (entrySp k s) - 8 + j := by
  obtain ⟨h8, htop, -⟩ := hc
  have e8 : busAddr (entrySp k s - 8) = busAddr (entrySp k s) - 8 := busAddr_sub (k := 8) h8
  rw [entryState_sp, busAddr_add (by rw [e8]; unfold Config.ramSize at htop; omega), e8]

/-- A read in the frame. -/
theorem entryState_memRead (hc : canEnter vector k s) {j : Nat} (hj : j < 8) (sz : Size) :
    memRead (entryState vector ret k s) ((entryState vector ret k s).sp + BitVec.ofNat 32 j) sz =
      ((entryRam vector ret k s).access (busAddr (entrySp k s) - 8 + j) sz, entryState vector ret k s) := by
  have hb := entryState_busAddr_sp (ret := ret) hc (Nat.le_of_lt hj)
  obtain ⟨h8, htop, -⟩ := hc
  rw [memRead_ram sz (by omega), hb]
  rfl

theorem trunc_toWord (f : Status) : trunc .w (f.toWord.setWidth 32) = f.toWord.setWidth 32 :=
  trunc_of_lt (by rw [BitVec.toNat_setWidth]; have := f.toWord.isLt; simp only [span, bitCount]; omega)

theorem formatWord_lt (vector : Byte) : (formatWord vector).toNat < 0x2000 := by
  rw [formatWord, BitVec.toNat_or, BitVec.toNat_ofNat]
  exact Nat.or_lt_two_pow (n := 13) (by decide) (by omega)

/-- The three parts of the frame as they read back. -/
theorem entryState_frame (hc : canEnter vector k s) :
    memRead (entryState vector ret k s) (entryState vector ret k s).sp .w =
      (s.sr.toWord.setWidth 32, entryState vector ret k s) ∧
    memRead (entryState vector ret k s) ((entryState vector ret k s).sp + 2) .l = (ret, entryState vector ret k s) ∧
    memRead (entryState vector ret k s) ((entryState vector ret k s).sp + 6) .w =
      (formatWord vector, entryState vector ret k s) := by
  have hend : busAddr (entrySp k s) - 8 + 8 ≤ Config.ramSize := by
    obtain ⟨h8, htop, -⟩ := hc
    omega
  have hfmt : trunc .w (formatWord vector) = formatWord vector :=
    trunc_of_lt (lt_trans (formatWord_lt vector) (by decide))
  refine ⟨?_, (entryState_memRead hc (j := 2) (by decide) .l).trans ?_,
    (entryState_memRead hc (j := 6) (by decide) .w).trans ?_⟩
  · have h0 := entryState_memRead (ret := ret) hc (j := 0) (by decide) .w
    rw [BitVec.add_zero] at h0
    rw [h0, Nat.add_zero, entryRam, framed_sr hend, trunc_toWord]
  · rw [entryRam, framed_ret hend]
  · rw [entryRam, framed_fmt hend, hfmt]

/-- Past RAM a byte depends on the devices alone. -/
theorem peek_of_devices {u : State} {x : Word} (hx : Config.ramSize ≤ busAddr x) (hp : u.psg = s.psg) (hm : u.mfp = s.mfp)
    (hd : u.dac = s.dac) : peek u x = peek s x := by
  unfold peek memRead
  rw [hp, hm, hd]
  split
  case h_1 hr => exact absurd (route_eq_ram hr).2 (not_lt.mpr hx)
  all_goals rfl

/-- Every byte outside the frame reads as before, in a state with this RAM and the old devices. -/
theorem peek_outside_frame (hc : canEnter vector k s) {u : State} (hr : u.ram = entryRam vector ret k s)
    (hp : u.psg = s.psg) (hm : u.mfp = s.mfp) (hd : u.dac = s.dac) {x : Word}
    (hx : outside x [((entryState vector ret k s).sp, 8)]) : peek u x = peek s x := by
  by_cases hram : busAddr x < Config.ramSize
  · have h0 := entryState_busAddr_sp (ret := ret) hc (j := 0) (by decide)
    rw [BitVec.add_zero] at h0
    have hout : busAddr x < busAddr (entryState vector ret k s).sp ∨ busAddr (entryState vector ret k s).sp + 8 ≤ busAddr x :=
      hx _ (.head _)
    rw [peek_ram hram, peek_ram hram, hr, entryRam, framed_read (by omega)]
  · exact peek_of_devices (not_lt.mp hram) hp hm hd
end

/-- Settles O10: `exceptionEntry_of_entered`, and the parts of `entryState`. -/
theorem exceptionFrame : Obligations.ExceptionFrame := by
  unfold Obligations.ExceptionFrame
  refine fun vector ret k s => ⟨fun t h => exceptionEntry_of_entered h, fun hc => ?_⟩
  obtain ⟨hsr, hret, hfmt⟩ := entryState_frame (ret := ret) hc
  obtain ⟨-, -, hvec⟩ := id hc
  have hpc : (entryState vector ret k s).pc = (memRead (entryState vector ret k s) (vectorSlot s vector) .l).1 := by
    rw [memRead_ram .l hvec]
    rfl
  have hpsg : (entryState vector ret k s).psg = s.psg := State.setSp_psg _ _
  have hmfp : (entryState vector ret k s).mfp = s.mfp := State.setSp_mfp _ _
  have hdac : (entryState vector ret k s).dac = s.dac := State.setSp_dac _ _
  refine ⟨entryState vector ret k s, entered_entryState hc, entryState_sr, entryState_sp, rfl, rfl, ?_, ?_, ?_, hpc,
    fun x hx => ?_, ?_, ?_, ?_, hpsg, hmfp, hdac, ?_, entryState_usp, entryState_other_sp⟩
  · rw [hsr]
  · rw [hret]
  · rw [hfmt]
  · exact peek_outside_frame hc rfl hpsg hmfp hdac hx
  · exact State.setSp_d _ _
  · exact State.setSp_a _ _
  · exact State.setSp_vbr _ _
  · exact State.setSp_fault _ _
end
end Sys2Proof.Machine

namespace Sys2Proof.Machine

section
open Claims

/-! ## Traps (47 R340 to R342, 41 R229, R230) -/

section
variable {s s1 t : State} {n : Reg} {src : Ea} {b : Word}

theorem raiseNext_of_entered {vector : Byte} (h : Entered vector s.pc .other s t) : raiseNext vector s = .ok () t :=
  exceptionEntry_of_entered h

theorem exec_trap {v : Fin 16} (h : Entered (BitVec.ofNat 8 (32 + v.val)) s.pc .other s t) : exec (.trap v) s = .next t :=
  finish_ok (raiseNext_of_entered h)

theorem exec_trapv_set (hv : s.sr.v = true) (h : Entered 7 s.pc .other s t) : exec .trapv s = .next t := by
  refine finish_ok (m := look _ >>= _) ((run_bind_ok (run_look _ s)).trans ?_)
  rw [if_pos hv]
  exact raiseNext_of_entered h

/-- Out of bounds `CHK` draws three free flags and sets `N` by the side (93 U4). -/
theorem exec_chk_trap (hr : readEa src .w s = .ok b s1)
    (hout : signedOf .w (trunc .w (s.dreg n)) < 0 ∨ signedOf .w b < signedOf .w (trunc .w (s.dreg n)))
    (h : Entered 6 s1.pc .other ({ s1 with draws := s1.draws + 3 }.setSr { s.sr with
      n := decide (signedOf .w (trunc .w (s.dreg n)) < 0), z := Config.freeBit s1.draws
      v := Config.freeBit (s1.draws + 1), c := Config.freeBit (s1.draws + 2) }) t) :
    exec (.chk n src) s = .next t := by
  have hc := readEa_consults hr
  rw [← trunc_of_lt (readEa_lt hr)] at hout
  rw [← signed16_eq, ← hc.dreg] at hout h
  rw [← signed16_eq] at hout
  rw [← hc.sr] at h
  refine finish_ok (m := readEa src .w >>= _) ((run_bind_ok hr).trans ((run_bind_ok (run_look _ _)).trans
    ((run_bind_ok (run_drawBit _)).trans ((run_bind_ok (run_drawBit _)).trans ((run_bind_ok (run_drawBit _)).trans
      ((run_bind_ok (run_setFlags _ _)).trans ?_))))))
  by_cases hneg : signed16 (s1.dreg n) < 0
  · rw [decide_eq_true hneg] at h
    rw [if_pos hneg, run_bind_ok (run_setFlags _ _)]
    exact raiseNext_of_entered h
  · rw [decide_eq_false hneg] at h
    rw [if_neg hneg, if_pos (hout.resolve_left hneg), run_bind_ok (run_setFlags _ _)]
    exact raiseNext_of_entered h

/-- A division by zero draws `N`, `Z` and `V` (93 U5). -/
theorem run_divideByZero (h : Entered 5 s1.pc .other ({ s1 with draws := s1.draws + 3 }.setSr { s1.sr with
      n := Config.freeBit s1.draws, z := Config.freeBit (s1.draws + 1), v := Config.freeBit (s1.draws + 2), c := false }) t) :
    divideByZero s1 = .ok () t := by
  refine (run_bind_ok (run_drawBit _)).trans ((run_bind_ok (run_drawBit _)).trans ((run_bind_ok (run_drawBit _)).trans
    ((run_bind_ok (run_setFlags _ _)).trans ?_)))
  exact raiseNext_of_entered h

theorem exec_divu_zero (hr : readEa src .w s = .ok 0 s1) (h : divideByZero s1 = .ok () t) :
    exec (.divu n src) s = .next t :=
  finish_ok (m := readEa src .w >>= _) ((run_bind_ok hr).trans ((run_bind_ok (run_look _ _)).trans h))

theorem exec_divs_zero (hr : readEa src .w s = .ok 0 s1) (h : divideByZero s1 = .ok () t) :
    exec (.divs n src) s = .next t :=
  finish_ok (m := readEa src .w >>= _) ((run_bind_ok hr).trans ((run_bind_ok (run_look _ _)).trans h))
end

/-- Settles O11: one equation per trap; the free flags are the model's own draws. -/
theorem trapsEnterTheirVectors : Obligations.TrapsEnterTheirVectors := by
  unfold Obligations.TrapsEnterTheirVectors
  refine ⟨fun s t v h => exec_trap h, fun s t hv h => exec_trapv_set hv h,
    fun s s1 n src b _ hr hout => ⟨_, _, _, fun t h => exec_chk_trap hr hout h⟩, fun s s1 n src _ hr => ?_⟩
  rw [← (readEa_consults hr).sr]
  exact ⟨⟨_, _, _, fun t h => exec_divu_zero hr (run_divideByZero h)⟩,
    ⟨_, _, _, fun t h => exec_divs_zero hr (run_divideByZero h)⟩⟩

/-! ## Privilege (60 R404) -/

theorem run_privileged_user {body : M Unit} {s : State} (hs : s.sr.s = false) :
    privileged body s = exceptionEntry 8 (s.pc - 2) .other s := by
  rw [privileged, run_bind_ok (run_look _ _), if_neg (ne_true_of_eq_false hs)]
  rfl

/-- The privileged rows of the table are those whose meaning is a privileged body. -/
theorem exec_of_privileged {i : Instr} (h : i.privileged = true) : ∃ body, ∀ s, exec i s = finish (privileged body) s := by
  cases i with
  | oriToSr => exact ⟨_, fun _ => rfl⟩
  | andiToSr => exact ⟨_, fun _ => rfl⟩
  | eoriToSr => exact ⟨_, fun _ => rfl⟩
  | moveToSr src => exact ⟨_, fun _ => rfl⟩
  | moveAnUsp n => exact ⟨_, fun _ => rfl⟩
  | moveUspAn n => exact ⟨_, fun _ => rfl⟩
  | reset => exact ⟨_, fun _ => rfl⟩
  | stop => exact ⟨_, fun _ => rfl⟩
  | rte => exact ⟨_, fun _ => rfl⟩
  | _ => cases h

/-- In user mode a privileged instruction is the entry of vector 8. -/
theorem exec_privileged_user {i : Instr} {s : State} (h : i.privileged = true) (hs : s.sr.s = false) :
    exec i s = finish (exceptionEntry 8 (s.pc - 2) .other) s := by
  obtain ⟨body, he⟩ := exec_of_privileged h
  rw [he, finish, finish, run_privileged_user hs]

/-- Settles O12: `exec_privileged_user`, and `Entered` is what the entry answers. -/
theorem privilegeViolation : Obligations.PrivilegeViolation := by
  unfold Obligations.PrivilegeViolation
  intro s t i hi hs h
  rw [exec_privileged_user hi hs]
  exact finish_ok (exceptionEntry_of_entered h)

/-- Only privileged instructions may write the system byte. -/
theorem privileged_of_whole {i : Instr} (h : statusPart i = .whole) : i.privileged = true := by
  cases i with
  | oriToSr => rfl
  | andiToSr => rfl
  | eoriToSr => rfl
  | moveToSr src => rfl
  | stop => rfl
  | rte => rfl
  | addq q sz dst => simp only [statusPart] at h; split at h <;> cases h
  | subq q sz dst => simp only [statusPart] at h; split at h <;> cases h
  | _ => cases h

theorem sameBut_system {p : StatusPart} {f g : Status} (hp : p ≠ .whole) (h : sameBut p f g) :
    g.s = f.s ∧ g.t = f.t ∧ g.m = f.m ∧ g.i = f.i := by
  cases p with
  | whole => exact absurd rfl hp
  | nothing => rw [show g = f from h]; exact ⟨rfl, rfl, rfl, rfl⟩
  | zero => rw [show g = _ from h]; exact ⟨rfl, rfl, rfl, rfl⟩
  | nzvc => rw [show g = _ from h]; exact ⟨rfl, rfl, rfl, rfl⟩
  | flags => rw [show g = _ from h]; exact ⟨rfl, rfl, rfl, rfl⟩

/-- A privileged instruction in user mode takes an exception. -/
theorem trap_of_privileged_user {i : Instr} {s t : State} (h : exec i s = .next t) (hi : i.privileged = true)
    (hs : s.sr.s = false) : t.trap = true := by
  rw [exec_privileged_user hi hs] at h
  rcases finish_next h with h | ⟨r, u, h, -⟩
  · exact (exceptionEntry_ok h).1
  · exact (exceptionEntry_ends.fault r u h).elim

/-- Settles O15: what may write the system byte would have trapped, and the frames keep the rest. -/
theorem userModeConfined : Obligations.UserModeConfined := by
  unfold Obligations.UserModeConfined
  intro i s t h hs ht
  have hpart : statusPart i ≠ .whole := fun hw => by
    rw [trap_of_privileged_user h (privileged_of_whole hw) hs] at ht
    cases ht
  obtain ⟨es, et, em, ei⟩ := sameBut_system hpart (statusFrame i s t h ht)
  obtain ⟨-, hisp, hssp⟩ := addressRegisterFrame.2 i s t h ht
  exact ⟨es.trans hs, et, em, ei, hssp (.inl hs), hisp (.inl hs)⟩

/-! ## `RTE` (47 R344) -/

theorem latchFault_d {s u : State} {r : Fault} (h : u.d = s.d) : (latchFault s u r).d = s.d :=
  Vector.ext fun n hn => by simp [latchFault, afterFault, h]

theorem latchFault_a {s u : State} {r : Fault} (h : u.a = s.a) : (latchFault s u r).a = s.a :=
  Vector.ext fun n hn => by simp [latchFault, afterFault, h]

section
variable {s s1 s2 s3 : State} {w p f : Word}

/-- `RTE` once the frame is read. -/
theorem run_exceptionReturn (hw : memRead s s.sp .w = (w, s1)) (hp : memRead s1 (s.sp + 2) .l = (p, s2))
    (hf : memRead s2 (s.sp + 6) .w = (f, s3)) : exceptionReturn s =
      if f.toNat / 2 ^ 12 ≤ 1 then
        .ok () { s3.setSp (s.sp + 8) with sr := Status.ofWord (w.setWidth 16), pc := p }
      else .error (.fault .badFrameFormat) s3 := by
  refine (run_bind_ok (run_look _ s)).trans ((run_bind_ok (run_readMem _ _ s)).trans ?_)
  rw [hw]
  refine (run_bind_ok (run_readMem _ _ s1)).trans ?_
  rw [hp]
  refine (run_bind_ok (run_readMem _ _ s2)).trans ?_
  rw [hf]
  split <;> rfl

theorem exec_rte (hs : s.sr.s = true) (hw : memRead s s.sp .w = (w, s1)) (hp : memRead s1 (s.sp + 2) .l = (p, s2))
    (hf : memRead s2 (s.sp + 6) .w = (f, s3)) (h : f.toNat < 0x2000) :
    exec .rte s = .next { s3.setSp (s.sp + 8) with sr := Status.ofWord (w.setWidth 16), pc := p } := by
  refine finish_ok (m := privileged exceptionReturn) ?_
  rw [run_privileged hs, run_exceptionReturn hw hp hf, if_pos (by omega)]

theorem exec_rte_fault (hs : s.sr.s = true) (hw : memRead s s.sp .w = (w, s1)) (hp : memRead s1 (s.sp + 2) .l = (p, s2))
    (hf : memRead s2 (s.sp + 6) .w = (f, s3)) (h : 0x2000 ≤ f.toNat) :
    exec .rte s = .next (latchFault s s3 .badFrameFormat) := by
  refine finish_fault (m := privileged exceptionReturn) ?_
  rw [run_privileged hs, run_exceptionReturn hw hp hf, if_neg (by omega)]

theorem memRead_keeps_of {s t : State} {a v : Word} {sz : Size} (h : memRead s a sz = (v, t)) :
    t = { s with dac := t.dac } := by
  have hk := memRead_keeps s a sz
  rwa [h] at hk

/-- The reads of the frame leave everything but the microwire's two fields (20_memory R95). -/
theorem frame_reads_keep (hw : memRead s s.sp .w = (w, s1)) (hp : memRead s1 (s.sp + 2) .l = (p, s2))
    (hf : memRead s2 (s.sp + 6) .w = (f, s3)) : s3 = { s with dac := s3.dac } := by
  have k3 := memRead_keeps_of hf
  rw [memRead_keeps_of hp, memRead_keeps_of hw] at k3
  exact k3
end

/-- Settles O13: the frame is read whole, and its format nibble decides. -/
theorem returnFromException : Obligations.ReturnFromException := by
  unfold Obligations.ReturnFromException
  intro s s1 s2 s3 w p f hs hw hp hf
  refine ⟨fun h => exec_rte hs hw hp hf h, fun h => ⟨_, exec_rte_fault hs hw hp hf h, rfl, ?_⟩⟩
  rw [frame_reads_keep hw hp hf]
  exact ⟨rfl, latchFault_usp rfl, latchFault_ssp rfl, latchFault_isp rfl, latchFault_d rfl, latchFault_a rfl, rfl⟩

/-! ## Entry, then `RTE` -/

/-- A stack pointer moved and moved back. -/
theorem setSp_back (s : State) (v : Word) : (s.setSp v).setSp s.sp = s := by
  rw [State.setSp_setSp]
  rcases hs : s.sr.s <;> rcases hm : s.sr.m <;> simp [State.setSp, State.sp, hs, hm]

theorem State.setSp_latchesOf (s : State) (v : Word) (m : Memory) (pc : Word) (b c : Bool) :
    ({ s with ram := m, pc := pc, stopped := b, trap := c } : State).setSp v =
      { s.setSp v with ram := m, pc := pc, stopped := b, trap := c } := by
  unfold State.setSp
  split <;> [(split <;> rfl); rfl]

section
variable {vector : Byte} {ret : Word} {k : ExceptionKind} {s : State}

/-- The entry's stack pointer moved back is the state before the entry, but for RAM, `PC`, the status word and the two
latches. -/
theorem entryState_setSp : (entryState vector ret k s).setSp (entrySp k s) =
    { s with
      sr := onEntry s.sr k, ram := entryRam vector ret k s, pc := (entryState vector ret k s).pc
      stopped := false, trap := true } := by
  have h : ((s.setSr (onEntry s.sr k)).setSp (entrySp k s - 8)).setSp (entrySp k s) = s.setSr (onEntry s.sr k) :=
    setSp_back _ _
  rw [entryState, State.setSp_latchesOf, h]
  rfl

theorem exec_rte_entryState (hc : canEnter vector k s) : exec .rte (entryState vector ret k s) =
    .next { s with ram := entryRam vector ret k s, pc := ret, stopped := false, trap := true } := by
  obtain ⟨hsr, hret, hfmt⟩ := entryState_frame (ret := ret) hc
  have hs : (entryState vector ret k s).sr.s = true := by rw [entryState_sr, onEntry_s]
  have hsp : (entryState vector ret k s).sp + 8 = entrySp k s := by rw [entryState_sp, BitVec.sub_add_cancel]
  have hword : Status.ofWord ((s.sr.toWord.setWidth 32).setWidth 16) = s.sr := by
    rw [BitVec.setWidth_setWidth_of_le _ (by decide), BitVec.setWidth_eq, Status.ofWord_toWord]
  rw [exec_rte hs hsr hret hfmt (formatWord_lt vector), hsp, hword, entryState_setSp]
end

/-- Settles O14: the frame reads back, and the stack pointer is moved back. -/
theorem exceptionRoundTrip : Obligations.ExceptionRoundTrip := by
  unfold Obligations.ExceptionRoundTrip
  intro vector ret k s t hc ht
  obtain rfl := eq_entryState_of_entered ht hc
  refine ⟨_, exec_rte_entryState hc, rfl, rfl, rfl, rfl, rfl, rfl, rfl, rfl, fun x hx => ?_⟩
  refine peek_outside_frame hc ?_ ?_ ?_ ?_ hx <;> rfl

/-! ## `MOVE USP`, `STOP`, `RESET` (47 R333, R334, R346, R347) -/

section
variable {s : State}

theorem exec_moveAnUsp (hs : s.sr.s = true) (n : Reg) : exec (.moveAnUsp n) s = .next { s with usp := s.areg n } :=
  finish_ok (run_privileged hs)

theorem exec_moveUspAn (hs : s.sr.s = true) (n : Reg) : exec (.moveUspAn n) s = .next (s.setA n s.usp) :=
  finish_ok (run_privileged hs)

theorem exec_stop (hs : s.sr.s = true) :
    exec .stop s = .next { after1 s with sr := Status.ofWord (word1 s), stopped := true } :=
  finish_ok (m := privileged (fetch16 >>= _)) ((run_privileged hs).trans (run_bind_ok (run_fetch16 s)))

theorem exec_reset (hs : s.sr.s = true) : exec .reset s = .next (latchFault s s .resetInstruction) :=
  finish_fault (run_privileged hs)
end

/-- Settles O49: one equation per instruction; the fault of `RESET` is latched in the unchanged state. -/
theorem supervisorOperations : Obligations.SupervisorOperations := by
  unfold Obligations.SupervisorOperations
  exact fun s n hs => ⟨exec_moveAnUsp hs n, exec_moveUspAn hs n, exec_stop hs, _, exec_reset hs, rfl, latchFault_d rfl,
    latchFault_a rfl, latchFault_usp rfl, latchFault_ssp rfl, latchFault_isp rfl, rfl, rfl, rfl, rfl, rfl⟩
end
end Sys2Proof.Machine

namespace Sys2Proof.Machine

/-! # The clock synchroniser (64 R600 to R602)

The balance of a clock manager: calls times `target` and ticks times `base` differ by what the counter and the correction
hold, and both are bounded. -/

section
open Claims

/-- After `n` calls from reset, `k` of them ticks: what the correction and the counter make up for. -/
structure Balanced (b t n k : Nat) (c : ClockManager) : Prop where
  base : c.base = b
  target : c.target = t
  ok : c.ok = true
  balance : n * t + c.correction = k * b + b % t + c.timeSinceLastCycle * t

theorem Balanced.advance {b t n k : Nat} {c : ClockManager} (h : Balanced b t n k c) :
    Balanced b t (n + 1) (k + bitNat c.advance.2) c.advance.1 := by
  have hok := ClockManager.ok_advance h.ok
  obtain ⟨⟨⟨h0, h1⟩, h2⟩, h3⟩ := c.ok_iff.mp h.ok
  have hbal := h.balance
  have hdiv := Nat.div_add_mod b t
  rw [h.base, h.target] at h1 h3
  rw [h.target] at h0 h2
  rcases c.advance_cases with ⟨-, e⟩ | ⟨hge, e⟩ <;> rw [e] at hok ⊢ <;> refine ⟨h.base, h.target, hok, ?_⟩
  · show (n + 1) * t + c.correction = (k + 0) * b + b % t + (c.timeSinceLastCycle + 1) * t
    linarith
  · have hspace : b / t + c.correction / t ≤ c.timeSinceLastCycle + 1 := by
      rw [← h.base, ← h.target]
      exact hge
    show (n + 1) * t + ((if c.target ≤ c.correction then c.correction - c.target else c.correction) + c.base % c.target) =
      (k + 1) * b + b % t + 0 * t
    rw [h.base, h.target]
    by_cases hc : t ≤ c.correction
    · have h1 : c.correction / t = 1 := Nat.div_eq_of_lt_le (by omega) (by omega)
      have htime : c.timeSinceLastCycle = b / t := by omega
      rw [htime] at hbal
      rw [if_pos hc]
      zify [hc] at *
      linarith
    · have h0 : c.correction / t = 0 := Nat.div_eq_of_lt (not_le.mp hc)
      have htime : b / t = c.timeSinceLastCycle + 1 := by omega
      rw [htime] at hdiv
      rw [if_neg hc]
      linarith

theorem ticks_balanced {b t : Nat} (h0 : 0 < t) (h : t ≤ b) (n : Nat) :
    Balanced b t n (ticks n (ClockManager.cold b t)).2 (ticks n (ClockManager.cold b t)).1 := by
  induction n with
  | zero => exact ⟨rfl, rfl, ClockManager.ok_cold h0 h, by simp [ticks, ClockManager.cold]⟩
  | succ n ih => exact ih.advance

/-- Before the first tick a manager only counts. -/
theorem ticks_before_first {b t n : Nat} (h : n < b / t) :
    ticks n (ClockManager.cold b t) = ({ ClockManager.cold b t with timeSinceLastCycle := n }, 0) := by
  induction n with
  | zero => rfl
  | succ n ih =>
    have hspace : n + 1 < b / t + b % t / t := Nat.lt_add_right _ h
    rw [ticks, ih (by omega), ClockManager.advance]
    exact congrArg (fun r : ClockManager × Bool => (r.1, 0 + bitNat r.2)) (if_pos hspace)

theorem ticks_first {b t : Nat} (h0 : 0 < t) (h : t ≤ b) : (ticks (b / t) (ClockManager.cold b t)).2 = 1 := by
  obtain ⟨n, hn⟩ : ∃ n, b / t = n + 1 := Nat.exists_eq_succ_of_ne_zero (Nat.div_pos h h0).ne'
  have hspace : ¬ n + 1 < b / t + b % t / t := by
    rw [Nat.div_eq_of_lt (Nat.mod_lt b h0)]
    omega
  rw [hn, ticks, ticks_before_first (by omega), ClockManager.advance]
  exact congrArg (fun r : ClockManager × Bool => 0 + bitNat r.2) (if_neg hspace)

/-- Settles O52: by the balance, whose correction is below `2 * t` and whose counter is below the spacing. -/
theorem clockNeverDrifts : Obligations.ClockNeverDrifts := by
  unfold Obligations.ClockNeverDrifts
  intro b t n h0 h
  refine ⟨?_, fun hn => by rw [ticks_before_first hn], ticks_first h0 h⟩
  obtain ⟨hb, ht, hok, hbal⟩ := ticks_balanced h0 h n
  generalize ticks n (ClockManager.cold b t) = p at *
  obtain ⟨⟨⟨-, -⟩, hcorr⟩, htime⟩ := p.1.ok_iff.mp hok
  rw [hb, ht] at htime
  rw [ht] at hcorr
  have hm : b % t < t := Nat.mod_lt b h0
  have hq : p.1.correction / t < 2 := Nat.div_lt_of_lt_mul (by omega)
  have hlate : p.1.timeSinceLastCycle * t ≤ b / t * t := Nat.mul_le_mul_right t (by omega)
  have hdiv := Nat.div_add_mod b t
  have hnonneg : 0 ≤ p.1.timeSinceLastCycle * t + b % t := Nat.zero_le _
  rw [Nat.mul_comm] at hdiv
  zify at *
  constructor <;> linarith
end
end Sys2Proof.Machine

namespace Sys2Proof.Machine

/-! # The MC68901 -/

section
open Claims

/-! ## The interrupt controller (61 R481, R490, R491) -/

theorem getLsbD_channelBit (ch : Nat) {j : Nat} (hj : j < 16) : (channelBit ch).getLsbD j = decide (j = ch) := by
  rw [channelBit, BitVec.getLsbD_ofNat, decide_eq_true hj, Bool.true_and, Nat.testBit_two_pow, decide_eq_decide]
  exact eq_comm

/-- The vector's high nibble is that of `VR`, its low nibble the channel. -/
theorem vector_toNat (vr : Byte) {ch : Nat} (hch : ch < 16) :
    ((vr &&& 0xF0) ||| BitVec.ofNat 8 ch).toNat = vr.toNat / 16 * 16 + ch := by
  have h : (vr &&& 0xF0) ||| BitVec.ofNat 8 ch = vr.extractLsb' 4 4 ++ BitVec.ofNat 4 ch := by
    refine BitVec.eq_of_getLsbD_eq fun j hj => ?_
    have hhi : ∀ i, 4 ≤ i → ch.testBit i = false := fun i hi =>
      Nat.testBit_lt_two_pow (lt_of_lt_of_le hch (Nat.pow_le_pow_right (n := 2) (by decide) hi))
    simp only [BitVec.getLsbD_or, BitVec.getLsbD_and, BitVec.getLsbD_append, BitVec.getLsbD_extractLsb', BitVec.getLsbD_ofNat]
    interval_cases j <;> simp [hhi]
  rw [h, append_toNat, BitVec.extractLsb'_toNat, BitVec.toNat_ofNat, Nat.shiftRight_eq_div_pow]
  have := vr.isLt
  omega

theorem Mfp.line_eq_false {m : Mfp} (h : m.ipr &&& m.imr = 0) : m.line = false :=
  eq_false_of_ne_true fun hl => m.line_iff.mp hl h

theorem topChannel_zero (n : Nat) : topChannel 0 n = none := by
  induction n with
  | zero => rfl
  | succ n ih => rw [topChannel, if_neg (by simp), ih]

theorem Mfp.irqCause_spurious {m : Mfp} (h : m.ipr &&& m.imr = 0) : m.irqCause = (m, 0x18) := by
  rw [Mfp.irqCause, h, topChannel_zero]
  rfl

theorem Mfp.setPending_ipr (m : Mfp) {ch j : Nat} (hj : j < 16) :
    (m.setPending ch).ipr.getLsbD j = (m.ipr.getLsbD j || (decide (j = ch) && m.ier.getLsbD ch)) := by
  unfold Mfp.setPending
  split
  · rename_i he
    rw [he, Bool.and_true, ← getLsbD_channelBit ch hj]
    exact BitVec.getLsbD_or
  · rename_i he
    simp [he]

theorem memWrite_mfp {s : State} {a : Word} {o : Nat} {sz : Size} {v : Word} {m : Mfp} (hr : route a = some (.mfp, o))
    (hs : s.mfp.store o sz v = .ok m) : memWrite s a sz v = .ok { s with mfp := m } := by
  simp only [memWrite, hr, hs]

theorem byteOf_b_toNat (v : Word) : (byteOf .b v 0).toNat = v.toNat % 256 := by
  rw [byteOf_toNat]
  exact congrArg (· % 256) (Nat.div_one _)

theorem withHi_toNat (v : Half) (b : Byte) : (withHi v b).toNat = b.toNat * 256 + v.toNat % 256 := by
  rw [withHi, append_toNat, loByte, BitVec.extractLsb'_toNat, Nat.shiftRight_zero]
  rfl

/-- Settles O50: `irqCause_eq` and its opposite, `SetPending` bit by bit, and the two register writes. -/
theorem mfpInterruptController : Obligations.MfpInterruptController := by
  unfold Obligations.MfpInterruptController
  refine ⟨fun m ch hch hc hj => ?cause, fun m h => ⟨Mfp.irqCause_spurious h, Mfp.line_eq_false h⟩,
    fun m h => m.line_iff.mpr h, fun m ch j _ hj => m.setPending_ipr hj, fun s v => ?writes⟩
  case cause =>
    rw [Mfp.irqCause_eq hch hc hj]
    refine ⟨vector_toNat m.vr hch, rfl, fun j => ?_⟩
    show (m.ipr &&& ~~~ channelBit ch).getLsbD j = _
    by_cases h16 : j < 16
    · rw [BitVec.getLsbD_and, BitVec.getLsbD_not, getLsbD_channelBit ch h16, decide_eq_true h16, Bool.true_and, decide_not]
    · rw [BitVec.getLsbD_of_ge _ _ (not_lt.mp h16), BitVec.getLsbD_of_ge m.ipr _ (not_lt.mp h16), Bool.false_and]
  case writes =>
    have hier : route 0x00FFFA07 = some (.mfp, 7) := by decide
    have hipr : route 0x00FFFA0B = some (.mfp, 11) := by decide
    refine ⟨_, _, memWrite_mfp hier rfl, rfl, ?_, memWrite_mfp hipr rfl, rfl, ?_⟩
    · show (withHi s.mfp.ier (byteOf .b v 0)).toNat = _
      rw [withHi_toNat, byteOf_b_toNat]
    · show withHi s.mfp.ipr (hiByte s.mfp.ipr &&& byteOf .b v 0) = _
      have hmask : byteOf .b v 0 ++ 0xFF#8 = BitVec.ofNat 16 (v.toNat % 256 * 256 + 255) := by
        apply BitVec.eq_of_toNat_eq
        rw [append_toNat, byteOf_b_toNat, BitVec.toNat_ofNat, BitVec.toNat_ofNat]
        omega
      rw [withHi_and, hmask]

/-! ## Timers in a delay mode (61 R471, R474 to R476) -/

/-- Counting up by one, in quotient and remainder. -/
theorem succ_div_mod {p : Nat} (hp : 0 < p) (k : Nat) :
    (k % p + 1 < p ∧ (k + 1) % p = k % p + 1 ∧ (k + 1) / p = k / p) ∨
      (k % p + 1 = p ∧ (k + 1) % p = 0 ∧ (k + 1) / p = k / p + 1) := by
  have hlt := Nat.mod_lt k hp
  have hk := Nat.mod_add_div k p
  by_cases h : k % p + 1 < p
  · have hd : k % p + 1 + p * (k / p) = k + 1 := by omega
    obtain ⟨hq, hr⟩ := (Nat.div_mod_unique hp).mpr ⟨hd, h⟩
    exact .inl ⟨h, hr, hq⟩
  · have hd : 0 + p * (k / p + 1) = k + 1 := by rw [Nat.mul_succ]; omega
    obtain ⟨hq, hr⟩ := (Nat.div_mod_unique hp).mpr ⟨hd, hp⟩
    exact .inr ⟨by omega, hr, hq⟩

/-- A prescaler of ratio `p` that has counted `j` clocks. -/
def prescalerAt (p j : Nat) : ClockManager := { ClockManager.cold p 1 with timeSinceLastCycle := j }

theorem prescalerAt_spacing (p j : Nat) : (prescalerAt p j).spacing = p := by
  show p / 1 + p % 1 / 1 = p
  rw [Nat.div_one, Nat.mod_one, Nat.zero_div, Nat.add_zero]

/-- Each `p`-th clock is a tick. -/
theorem prescalerAt_advance {p : Nat} (hp : 0 < p) (k : Nat) :
    (prescalerAt p (k % p)).advance = (prescalerAt p ((k + 1) % p), decide ((k + 1) % p = 0)) := by
  have hs := prescalerAt_spacing p (k % p)
  rcases (prescalerAt p (k % p)).advance_cases with ⟨h, e⟩ | ⟨h, e⟩ <;>
    rw [hs] at h <;> rw [e] <;> rcases succ_div_mod hp k with ⟨h', hmod, -⟩ | ⟨h', hmod, -⟩
  · rw [hmod]
    rfl
  · have : k % p + 1 < p := h
    omega
  · have : p ≤ k % p + 1 := h
    omega
  · rw [hmod]
    have hc : (if 1 ≤ p % 1 then p % 1 - 1 else p % 1) + p % 1 = p % 1 := by rw [Nat.mod_one]; rfl
    exact Prod.ext (congrArg (fun c => { prescalerAt p 0 with correction := c }) hc) rfl

/-- How many ticks a data register of `n` counts: 0 counts as 256. -/
def countOf (n : Byte) : Nat := if n = 0 then 256 else n.toNat

theorem countOf_pos (n : Byte) : 0 < countOf n := by
  unfold countOf
  split
  · decide
  · rename_i h
    exact Nat.pos_of_ne_zero fun h0 => h (BitVec.eq_of_toNat_eq h0)

theorem countOf_le (n : Byte) : countOf n ≤ 256 := by
  unfold countOf
  have := n.isLt
  split <;> omega

theorem ofNat_countOf (n : Byte) : BitVec.ofNat 8 (countOf n) = n := by
  unfold countOf
  split
  · rename_i h
    rw [h]
    rfl
  · rw [BitVec.ofNat_toNat, BitVec.setWidth_eq]

/-- The timer `k` clocks after its start in the mode `code` with data `n`. -/
def Timer.delayed (t : Timer) (code : BitVec 4) (n : Byte) (k : Nat) : Timer :=
  { t with
    control := code
    reload := n
    counter := BitVec.ofNat 8 (countOf n - k / prescaleOf code % countOf n)
    prescaler := prescalerAt (prescaleOf code) (k % prescaleOf code) }

section
variable {t : Timer} {code : BitVec 4} (n : Byte)

theorem Timer.start_eq_delayed (ht : t.control = 0) (hc : 0 < code.toNat) :
    (t.writeData n).setControl code = t.delayed code n 0 := by
  have hne : ¬ code = 0 := fun h => by rw [h] at hc; exact absurd hc (by decide)
  have hd : t.writeData n = { t with reload := n, counter := n } := by rw [Timer.writeData, if_pos ht]
  rw [hd, Timer.setControl, ht, if_neg hne, Timer.delayed, Nat.zero_div, Nat.zero_mod, Nat.zero_mod, Nat.sub_zero,
    ofNat_countOf]
  rfl

/-- One tick of the prescaler: the counter falls, or is reloaded where it would reach 0. -/
theorem Timer.countStep_delayed {u : Timer} {j : Nat} (hr : u.reload = n)
    (hu : u.counter = BitVec.ofNat 8 (countOf n - j % countOf n)) :
    u.countStep = ({ u with counter := BitVec.ofNat 8 (countOf n - (j + 1) % countOf n) }, decide ((j + 1) % countOf n = 0)) := by
  have hpos := countOf_pos n
  have hle := countOf_le n
  have hone : u.counter - 1 = BitVec.ofNat 8 (countOf n - j % countOf n - 1) := by
    rw [hu]
    apply BitVec.eq_of_toNat_eq
    have hlt := Nat.mod_lt j hpos
    rw [BitVec.toNat_sub, BitVec.toNat_ofNat, BitVec.toNat_ofNat, show (1 : Byte).toNat = 1 from rfl]
    omega
  have hzero : u.counter - 1 = 0 ↔ countOf n - j % countOf n - 1 = 0 := by
    rw [hone, ← BitVec.toNat_inj, BitVec.toNat_ofNat, show (0 : Byte).toNat = 0 from rfl]
    omega
  rw [Timer.countStep]
  rcases succ_div_mod hpos j with ⟨h, hmod, -⟩ | ⟨h, hmod, -⟩ <;> rw [hmod]
  · rw [if_neg (hzero.not.mpr (by omega)), hone, Nat.sub_sub]
    rfl
  · rw [if_pos (hzero.mpr (by omega)), hr, Nat.sub_zero, ofNat_countOf]
    rfl

/-- A clock in a delay mode is one of the prescaler, whose ticks the timer counts (61 R475). -/
theorem Timer.clock_of_delay {t : Timer} (h0 : 0 < t.control.toNat) (h8 : t.control.toNat < 8) : t.clock =
    if t.prescaler.advance.2 then Timer.countStep { t with prescaler := t.prescaler.advance.1 }
    else ({ t with prescaler := t.prescaler.advance.1 }, false) := by
  have hne0 : t.control ≠ 0 := fun h => absurd h0 (by rw [h]; decide)
  have hne8 : t.control ≠ 8 := fun h => absurd h8 (by rw [h]; decide)
  rw [Timer.clock, if_neg hne0, if_neg hne8, if_pos h8]
  rcases t.prescaler.advance with ⟨p, _ | _⟩ <;> rfl

/-- One clock of a delay mode. -/
theorem Timer.clock_delayed (t : Timer) (hc : 0 < code.toNat) (h8 : code.toNat < 8) (k : Nat) :
    (t.delayed code n k).clock =
      (t.delayed code n (k + 1), decide (prescaleOf code * countOf n ∣ k + 1)) := by
  have hp := prescaleOf_pos code
  have hadv : (t.delayed code n k).prescaler.advance =
      (prescalerAt (prescaleOf code) ((k + 1) % prescaleOf code), decide ((k + 1) % prescaleOf code = 0)) :=
    prescalerAt_advance hp k
  have hdvd : decide (prescaleOf code * countOf n ∣ k + 1) =
      decide ((k + 1) % prescaleOf code = 0 ∧ (k + 1) / prescaleOf code % countOf n = 0) := by
    rw [decide_eq_decide, Nat.dvd_iff_mod_eq_zero, Nat.mod_mul, Nat.add_eq_zero_iff, Nat.mul_eq_zero, or_iff_right hp.ne']
  rw [Timer.clock_of_delay (t := t.delayed code n k) hc h8, hadv, hdvd]
  rcases succ_div_mod hp k with ⟨-, hmod, hdiv⟩ | ⟨-, hmod, hdiv⟩
  · have hnz : ¬ (k + 1) % prescaleOf code = 0 := by omega
    simp only [hnz, decide_false, false_and, Timer.delayed, hdiv]
    rfl
  · simp only [hmod, decide_true, true_and, if_true]
    rw [Timer.countStep_delayed (u := { t.delayed code n k with prescaler := prescalerAt (prescaleOf code) 0 }) n rfl rfl,
      ← hdiv, Timer.delayed, Timer.delayed, hmod]

theorem timerRun_delayed (t : Timer) (hc : 0 < code.toNat) (h8 : code.toNat < 8) (k : Nat) :
    (timerRun k (t.delayed code n 0)).1 = t.delayed code n k := by
  induction k with
  | zero => rfl
  | succ k ih => rw [timerRun, ih, Timer.clock_delayed n t hc h8]
end

/-- The prescales of the delay modes as a table (61 R471). -/
theorem prescaleOf_eq {code : BitVec 4} (hc : 0 < code.toNat) (h8 : code.toNat < 8) :
    [0, 4, 10, 16, 50, 64, 100, 200].getD code.toNat 0 = prescaleOf code := by
  unfold prescaleOf
  generalize code.toNat = j at *
  interval_cases j <;> rfl

/-- Settles O51: the timer's state after `k` clocks is `Timer.delayed`. -/
theorem timerPeriod : Obligations.TimerPeriod := by
  unfold Obligations.TimerPeriod
  intro t code n k ht hc h8 p q
  have hp : p = prescaleOf code := prescaleOf_eq hc h8
  have hq : q = countOf n := rfl
  rw [Timer.start_eq_delayed n ht hc, timerRun, timerRun_delayed n t hc h8, Timer.clock_delayed n t hc h8, hp, hq]
end
end Sys2Proof.Machine

namespace Sys2Proof.Machine

/-! # The YM2149 -/

section
open Claims

/-! ## Registers on the bus (62 R521, R524) -/

section
variable (p : Psg) (v : Byte)

/-- A write of the selected register: that register, and for number 13 the envelope started again. -/
theorem Psg.writeSelected_eq : p.writeSelected v =
    { p with
      regs := p.regs.set p.sel.toNat (v &&& Psg.wmask p.sel) p.sel.isLt
      estep := if p.sel = 13 then 0 else p.estep
      ecnt := if p.sel = 13 then 0 else p.ecnt
      ehold := if p.sel = 13 then false else p.ehold
      eattack := if p.sel = 13 then v.getLsbD 2 else p.eattack } := by
  rw [Psg.writeSelected]
  split <;> rfl

theorem Psg.reg_writeSelected_same : (p.writeSelected v).reg p.sel = v &&& Psg.wmask p.sel := by
  simp [Psg.reg, Psg.regs_writeSelected]

theorem Psg.reg_writeSelected_other {j : BitVec 4} (h : j ≠ p.sel) : (p.writeSelected v).reg j = p.reg j := by
  have h' : p.sel.toNat ≠ j.toNat := fun e => h (BitVec.eq_of_toNat_eq e.symm)
  simp [Psg.reg, Psg.regs_writeSelected, h']

/-- The implemented bits of a register are its low ones: the value is taken modulo a power of two (10_state R40). -/
theorem Psg.and_wmask_toNat (r : BitVec 4) : (v &&& Psg.wmask r).toNat =
    v.toNat % (if r.toNat ∈ [1, 3, 5, 13] then 16 else if r.toNat ∈ [6, 8, 9, 10] then 32 else 256) := by
  have mod4 : (v &&& 0x0F).toNat = v.toNat % 16 := Nat.and_two_pow_sub_one_eq_mod v.toNat 4
  have mod5 : (v &&& 0x1F).toNat = v.toNat % 32 := Nat.and_two_pow_sub_one_eq_mod v.toNat 5
  have mod8 : (v &&& 0xFF).toNat = v.toNat % 256 := Nat.and_two_pow_sub_one_eq_mod v.toNat 8
  have hr : r.toNat < 16 := r.isLt
  unfold Psg.wmask
  generalize r.toNat = j at *
  interval_cases j <;> assumption
end

theorem byteOf_b (v : Word) : byteOf .b v 0 = v.setWidth 8 :=
  BitVec.eq_of_toNat_eq (by rw [byteOf_b_toNat, BitVec.toNat_setWidth])

theorem memWrite_psg {s : State} {a : Word} {o : Nat} (hr : route a = some (.psg, o)) (sz : Size) (v : Word) :
    memWrite s a sz v = .ok { s with psg := s.psg.store o sz v } := by
  simp only [memWrite, hr]

theorem peek_psg {s : State} {a : Word} (hr : route a = some (.psg, 0)) : peek s a = s.psg.reg s.psg.sel := by
  simp only [peek, memRead, hr]
  exact BitVec.setWidth_setWidth_of_le _ (by decide)

theorem psgSpan_dvd (r : BitVec 4) :
    (if r.toNat ∈ [1, 3, 5, 13] then 16 else if r.toNat ∈ [6, 8, 9, 10] then 32 else 256) ∣ 2 ^ 8 := by
  split <;> [skip; split] <;> decide

/-- A select write (62 R521). -/
def Psg.select (p : Psg) (r : BitVec 4) : Psg := { p with sel := r }

theorem Psg.store_select (p : Psg) (r : Word) : p.store 0 .b r = p.select (r.setWidth 4) := by
  rw [← BitVec.setWidth_setWidth_of_le r (show 4 ≤ 8 by decide), ← byteOf_b]
  rfl

theorem Psg.store_data (p : Psg) (v : Word) : p.store 2 .b v = p.writeSelected (v.setWidth 8) := by
  rw [← byteOf_b]
  rfl

/-- Settles O55: a select write sets `sel`, a data write is `writeSelected`. -/
theorem psgRegisterWrites : Obligations.PsgRegisterWrites := by
  unfold Obligations.PsgRegisterWrites
  intro s r v sel mask
  have hsel : route 0x00FF8800 = some (.psg, 0) := by decide
  have hdata : route 0x00FF8802 = some (.psg, 2) := by decide
  have ht : memWrite s 0x00FF8800 .b r = .ok { s with psg := s.psg.select sel } := by
    rw [memWrite_psg hsel, Psg.store_select]
  have hu : memWrite { s with psg := s.psg.select sel } 0x00FF8802 .b v =
      .ok { s with psg := (s.psg.select sel).writeSelected (v.setWidth 8) } := by
    rw [memWrite_psg hdata, Psg.store_data]
  have hread : (((s.psg.select sel).writeSelected (v.setWidth 8)).reg sel).toNat = v.toNat % mask := by
    have h := congrArg BitVec.toNat (Psg.reg_writeSelected_same (s.psg.select sel) (v.setWidth 8))
    rw [Psg.and_wmask_toNat, BitVec.toNat_setWidth] at h
    exact h.trans (Nat.mod_mod_of_dvd _ (psgSpan_dvd _))
  have hother : ∀ j : BitVec 4, j ≠ sel → ((s.psg.select sel).writeSelected (v.setWidth 8)).reg j = s.psg.reg j :=
    fun j hj => Psg.reg_writeSelected_other (s.psg.select sel) (v.setWidth 8) hj
  have heq := Psg.writeSelected_eq (s.psg.select sel) (v.setWidth 8)
  have hbit : (v.setWidth 8).getLsbD 2 = v.getLsbD 2 := by simp
  rw [hbit] at heq
  generalize (s.psg.select sel).writeSelected (v.setWidth 8) = q at hu hread hother heq
  have hqsel : q.sel = sel := by rw [heq]; rfl
  refine ⟨_, _, ht, hu, ?_, hqsel, hother, rfl, ?_⟩
  · rw [peek_psg hsel]
    show (q.reg q.sel).toNat = _
    rw [hqsel, hread]
  · subst heq
    refine ⟨rfl, rfl, rfl, rfl, rfl, rfl, rfl, ?_⟩
    by_cases h : sel = 13
    · rw [if_pos h]
      exact ⟨if_pos h, if_pos h, if_pos h, if_pos h⟩
    · rw [if_neg h]
      exact ⟨if_neg h, if_neg h, if_neg h, if_neg h⟩

/-! ## The divider and the samples (62 R530, R533) -/

section
variable {table : List Nat} {g : Psg}

theorem Psg.clockCycle_count (h : g.div8 + 1 ≠ 0) : g.clockCycle table = ({ g with div8 := g.div8 + 1 }, false) :=
  if_neg h

theorem Psg.clockCycle_wrap (h : g.div8 + 1 = 0) :
    g.clockCycle table = (Psg.generatorStep table { g with div8 := 0 }, true) := by
  rw [← h]
  exact if_pos h

/-- From a divider of 0 the first seven clocks only count. -/
theorem psgRun_count (h : g.div8 = 0) {k : Nat} (hk : k < 8) : psgRun table k g = { g with div8 := BitVec.ofNat 3 k } := by
  induction k with
  | zero =>
    show g = { g with div8 := 0 }
    rw [← h]
  | succ k ih =>
    have hnext : BitVec.ofNat 3 k + 1 = BitVec.ofNat 3 (k + 1) := (BitVec.ofNat_add k 1).symm
    have hne : BitVec.ofNat 3 (k + 1) ≠ 0 := fun e => by
      have : (k + 1) % 8 = 0 := congrArg BitVec.toNat e
      omega
    rw [psgRun, ih (by omega), Psg.clockCycle_count (by rwa [hnext]), hnext]

theorem psgRun_eight (h : g.div8 = 0) : psgRun table 8 g = Psg.generatorStep table { g with div8 := 0 } := by
  have hwrap : BitVec.ofNat 3 7 + 1 = 0 := by decide
  rw [psgRun, psgRun_count h (by decide), Psg.clockCycle_wrap (g := { g with div8 := BitVec.ofNat 3 7 }) hwrap]

/-- An entry of a legal level table, or 0 past its end (62 R533). -/
theorem Params.legal_level {p : Params} (h : p.legal = true) (i : Nat) : p.levelTable.getD i 0 ≤ 10922 := by
  simp only [Params.legal, Bool.and_eq_true, List.all_eq_true, decide_eq_true_eq] at h
  obtain ⟨-, hall⟩ := h
  rw [List.getD_eq_getElem?_getD]
  cases hi : p.levelTable[i]? with
  | none => exact Nat.zero_le _
  | some v => exact hall v (List.mem_of_getElem? hi)

theorem Psg.mix3_le {p : Params} (h : p.legal = true) (q : Psg) : q.mix3 p.levelTable ≤ 32766 := by
  have h0 := Params.legal_level h (q.channelLevel 0)
  have h1 := Params.legal_level h (q.channelLevel 1)
  have h2 := Params.legal_level h (q.channelLevel 2)
  unfold Psg.mix3
  omega
end

/-! ## The parts of a generator step (62 R531) -/

/-- The generator's state after the tone channels, and before the mix. -/
def Psg.tones (g : Psg) : Psg := ((g.toneStep 0).toneStep 1).toneStep 2
def Psg.stepped (g : Psg) : Psg := g.tones.noiseStep.envelopeTick

theorem Psg.generatorStep_eq (table : List Nat) (g : Psg) : g.generatorStep table =
    { g.stepped with sample := BitVec.ofNat 16 (g.stepped.mix3 table), ready := true } := rfl

section
variable (g : Psg) (k : Fin 3)

/-- A tone step changes the tone counters and outputs. -/
theorem Psg.toneStep_keeps : g.toneStep k = { g with tcnt := (g.toneStep k).tcnt, tout := (g.toneStep k).tout } := by
  unfold Psg.toneStep
  simp only
  split <;> rfl

theorem Psg.tones_keeps : g.tones = { g with tcnt := g.tones.tcnt, tout := g.tones.tout } := by
  unfold Psg.tones
  rw [Psg.toneStep_keeps _ 2, Psg.toneStep_keeps _ 1, Psg.toneStep_keeps _ 0]

theorem Psg.noiseStep_keeps : g.noiseStep = { g with ncnt := g.noiseStep.ncnt, lfsr := g.noiseStep.lfsr } := by
  unfold Psg.noiseStep
  simp only
  split <;> rfl

theorem Psg.envelopeStep_keeps : g.envelopeStep =
    { g with estep := g.envelopeStep.estep, eattack := g.envelopeStep.eattack, ehold := g.envelopeStep.ehold } := by
  unfold Psg.envelopeStep
  split <;> [rfl; (split <;> [rfl; (split <;> rfl)])]

theorem Psg.envelopeTick_keeps : g.envelopeTick =
    { g with
      ecnt := g.envelopeTick.ecnt, estep := g.envelopeTick.estep
      eattack := g.envelopeTick.eattack, ehold := g.envelopeTick.ehold } := by
  unfold Psg.envelopeTick
  simp only
  split <;> [rfl; (split <;> [(rw [Psg.envelopeStep_keeps]); rfl])]
end

/-! ## The parts of a generator step as the rules state them (62 R531, R532)

They are irreducible: the elaborator would otherwise evaluate a part's test to find the shape of a proof of it. -/

/-- Tone channel `k` from `g` to `h`. -/
@[irreducible] def ToneStepped (g h : Psg) (k : Fin 3) : Prop :=
  let c := g.tcnt[k].toNat + 1
  if max (psgNat g (2 * k.val + 1) % 16 * 256 + psgNat g (2 * k.val)) 1 ≤ c then h.tcnt[k] = 0 ∧ h.tout[k] = !g.tout[k]
  else h.tcnt[k].toNat = c ∧ h.tout[k] = g.tout[k]

/-- The noise generator from `g` to `h`. -/
@[irreducible] def NoiseStepped (g h : Psg) : Prop :=
  let c := g.ncnt.toNat + 1
  if 2 * max (psgNat g 6 % 32) 1 ≤ c then
    h.ncnt = 0 ∧ h.lfsr.toNat = g.lfsr.toNat / 2 + (g.lfsr.toNat + g.lfsr.toNat / 8) % 2 * 0x10000
  else h.ncnt.toNat = c ∧ h.lfsr = g.lfsr

/-- The envelope generator from `g` to `h`. -/
@[irreducible] def EnvelopeTicked (g h : Psg) : Prop :=
  let c := g.ecnt.toNat + 1
  if g.ehold then h.ecnt = g.ecnt ∧ h.estep = g.estep ∧ h.eattack = g.eattack ∧ h.ehold = true
  else if max (psgNat g 12 * 256 + psgNat g 11) 1 ≤ c then h.ecnt = 0 ∧ EnvelopeStepped g h
  else h.ecnt.toNat = c ∧ h.estep = g.estep ∧ h.eattack = g.eattack ∧ h.ehold = false

section
variable (g : Psg)

theorem psgNat_lt (r : Nat) : psgNat g r < 256 := (g.reg (BitVec.ofNat 4 r)).isLt

theorem toneStep_same (k : Fin 3) : ToneStepped g (g.toneStep k) k := by
  have h0 := psgNat_lt g (2 * k.val)
  have hc : ¬ max (g.tonePeriod k) 1 ≤ g.tcnt[k].toNat + 1 → g.tcnt[k].toNat + 1 < 2 ^ 12 := fun h => by
    have hp : g.tonePeriod k = psgNat g (2 * k.val + 1) % 16 * 256 + psgNat g (2 * k.val) := rfl
    omega
  unfold ToneStepped
  show if max (g.tonePeriod k) 1 ≤ g.tcnt[k].toNat + 1 then _ else _
  unfold Psg.toneStep
  simp only
  split
  · simp
  · rename_i h
    simpa using hc h

theorem toneStep_other {j k : Fin 3} (h : j ≠ k) :
    (g.toneStep k).tcnt[j] = g.tcnt[j] ∧ (g.toneStep k).tout[j] = g.tout[j] := by
  have h' : k.val ≠ j.val := fun e => h (Fin.ext e.symm)
  unfold Psg.toneStep
  simp only
  split <;> simp [h']

theorem getLsbD_eq_decide {n : Nat} (x : BitVec n) (j : Nat) : x.getLsbD j = decide (x.toNat / 2 ^ j % 2 = 1) :=
  Nat.testBit_eq_decide_div_mod_eq

theorem bitNat_xor (a b : Nat) : bitNat (decide (a % 2 = 1) ^^ decide (b % 2 = 1)) = (a + b) % 2 := by
  rcases Nat.mod_two_eq_zero_or_one a with ha | ha <;> rcases Nat.mod_two_eq_zero_or_one b with hb | hb <;>
    rw [Nat.add_mod, ha, hb] <;> rfl

theorem noiseStep_stepped : NoiseStepped g g.noiseStep := by
  have hc : ¬ 2 * max g.noisePeriod 1 ≤ g.ncnt.toNat + 1 → g.ncnt.toNat + 1 < 2 ^ 6 := fun h => by
    have hp : g.noisePeriod < 32 := Nat.mod_lt _ (by decide)
    omega
  have hl := g.lfsr.isLt
  have hlfsr : (BitVec.ofBool (g.lfsr.getLsbD 0 ^^ g.lfsr.getLsbD 3) ++ g.lfsr.extractLsb' 1 16).toNat =
      g.lfsr.toNat / 2 + (g.lfsr.toNat + g.lfsr.toNat / 8) % 2 * 0x10000 := by
    rw [append_toNat, ofBool_toNat, BitVec.extractLsb'_toNat, Nat.shiftRight_eq_div_pow, getLsbD_eq_decide,
      getLsbD_eq_decide, bitNat_xor]
    norm_num only
    omega
  unfold NoiseStepped
  show if 2 * max g.noisePeriod 1 ≤ g.ncnt.toNat + 1 then _ else _
  unfold Psg.noiseStep
  simp only
  split
  · exact ⟨rfl, hlfsr⟩
  · rename_i h
    exact ⟨Nat.mod_eq_of_lt (hc h), rfl⟩

/-- The shape bits as digits of the register (62 R523). -/
theorem shapeCont_iff : g.shapeCont = true ↔ ¬ psgNat g 13 % 16 < 8 := by
  rw [Psg.shapeCont, getLsbD_eq_decide, decide_eq_true_iff]
  show psgNat g 13 / 8 % 2 = 1 ↔ _
  omega

theorem shapeAlt_eq : g.shapeAlt = decide (psgNat g 13 % 16 / 2 % 2 = 1) := by
  rw [Psg.shapeAlt, getLsbD_eq_decide, decide_eq_decide]
  show psgNat g 13 / 2 % 2 = 1 ↔ _
  omega

theorem shapeHold_iff : g.shapeHold = true ↔ psgNat g 13 % 16 % 2 = 1 := by
  rw [Psg.shapeHold, getLsbD_eq_decide, decide_eq_true_iff]
  show psgNat g 13 / 1 % 2 = 1 ↔ _
  omega

theorem envelopeStepped_iff (h : Psg) : EnvelopeStepped g h ↔
    if g.estep.toNat < 31 then h.estep.toNat = g.estep.toNat + 1 ∧ h.eattack = g.eattack ∧ h.ehold = false
    else if psgNat g 13 % 16 < 8 then h.estep = 31 ∧ h.eattack = false ∧ h.ehold = true
    else h.eattack = (g.eattack ^^ decide (psgNat g 13 % 16 / 2 % 2 = 1)) ∧
      (if psgNat g 13 % 16 % 2 = 1 then h.estep = 31 ∧ h.ehold = true else h.estep = 0 ∧ h.ehold = false) := Iff.rfl

theorem envelopeStep_stepped (h : g.ehold = false) : EnvelopeStepped g g.envelopeStep := by
  have h5 := g.estep.isLt
  rw [envelopeStepped_iff]
  by_cases hs : g.estep.toNat < 31
  · have e : g.envelopeStep = { g with estep := g.estep + 1 } := if_pos hs
    rw [e, if_pos hs]
    exact ⟨(BitVec.toNat_add _ _).trans (Nat.mod_eq_of_lt (show g.estep.toNat + 1 < 2 ^ 5 by omega)), rfl, h⟩
  have hlast : g.estep = 31 := BitVec.eq_of_toNat_eq (show g.estep.toNat = 31 by omega)
  rw [if_neg hs, Psg.envelopeStep, if_neg hs, shapeAlt_eq]
  by_cases hc : g.shapeCont
  · rw [if_neg ((shapeCont_iff g).mp hc), hc]
    by_cases hh : g.shapeHold
    · rw [if_pos ((shapeHold_iff g).mp hh), hh]
      exact ⟨rfl, hlast, rfl⟩
    · rw [if_neg ((shapeHold_iff g).not.mp hh), eq_false_of_ne_true hh]
      exact ⟨rfl, rfl, h⟩
  · rw [if_pos (not_not.mp ((shapeCont_iff g).not.mp hc)), eq_false_of_ne_true hc]
    exact ⟨hlast, rfl, rfl⟩

theorem envelopeTick_ticked : EnvelopeTicked g g.envelopeTick := by
  have hc : ¬ max g.envPeriod 1 ≤ g.ecnt.toNat + 1 → g.ecnt.toNat + 1 < 2 ^ 16 := fun h => by
    have h12 := psgNat_lt g 12
    have h11 := psgNat_lt g 11
    have hp : g.envPeriod = psgNat g 12 * 256 + psgNat g 11 := rfl
    omega
  unfold EnvelopeTicked
  show if g.ehold then _ else if max g.envPeriod 1 ≤ g.ecnt.toNat + 1 then _ else _
  unfold Psg.envelopeTick
  simp only
  split
  · rename_i h
    exact ⟨rfl, rfl, rfl, h⟩
  · rename_i h
    have h := eq_false_of_ne_true h
    split
    · rw [Psg.envelopeStep_keeps]
      exact ⟨rfl, envelopeStep_stepped { g with ecnt := 0 } h⟩
    · rename_i hn
      exact ⟨Nat.mod_eq_of_lt (hc hn), rfl, rfl, h⟩
end

/-! ## A generator step (62 R531) -/

/-- All that a generator step changes before the mix. -/
structure GeneratorStepped (g h : Psg) : Prop where
  tones : ∀ k, ToneStepped g h k
  noise : NoiseStepped g h
  envelope : EnvelopeTicked g h
  regs : h.regs = g.regs
  sel : h.sel = g.sel
  div8 : h.div8 = g.div8

theorem ToneStepped.congr {g g' h h' : Psg} {k : Fin 3} (hs : ToneStepped g' h' k) (hr : g'.regs = g.regs)
    (hg : g'.tcnt[k] = g.tcnt[k] ∧ g'.tout[k] = g.tout[k]) (hh : h.tcnt[k] = h'.tcnt[k] ∧ h.tout[k] = h'.tout[k]) :
    ToneStepped g h k := by
  unfold ToneStepped psgNat at *
  rwa [Psg.reg_congr hr, Psg.reg_congr hr, hg.1, hg.2, ← hh.1, ← hh.2] at hs

theorem NoiseStepped.congr {g g' h h' : Psg} (hs : NoiseStepped g' h') (hr : g'.regs = g.regs) (hg : g'.ncnt = g.ncnt)
    (hl : g'.lfsr = g.lfsr) (hh : h.ncnt = h'.ncnt) (hl' : h.lfsr = h'.lfsr) : NoiseStepped g h := by
  unfold NoiseStepped psgNat at *
  rwa [Psg.reg_congr hr, hg, hl, ← hh, ← hl'] at hs

theorem EnvelopeTicked.congr {g g' h : Psg} (hs : EnvelopeTicked g' h) (hr : g'.regs = g.regs) (hc : g'.ecnt = g.ecnt)
    (he : g'.estep = g.estep) (ha : g'.eattack = g.eattack) (hh : g'.ehold = g.ehold) : EnvelopeTicked g h := by
  unfold EnvelopeTicked EnvelopeStepped psgNat at *
  rwa [Psg.reg_congr hr, Psg.reg_congr hr, Psg.reg_congr hr, hc, he, ha, hh] at hs

/-- The three channels do not disturb one another. -/
theorem tones_stepped (g : Psg) (k : Fin 3) : ToneStepped g g.tones k := by
  have h0 := toneStep_same g 0
  have h1 := toneStep_same (g.toneStep 0) 1
  have h2 := toneStep_same ((g.toneStep 0).toneStep 1) 2
  have r0 := Psg.toneStep_regs g 0
  have r1 := (Psg.toneStep_regs (g.toneStep 0) 1).trans r0
  have h01 := toneStep_other g (j := 1) (k := 0) (by decide)
  have h02 := toneStep_other g (j := 2) (k := 0) (by decide)
  have h10 := toneStep_other (g.toneStep 0) (j := 0) (k := 1) (by decide)
  have h12 := toneStep_other (g.toneStep 0) (j := 2) (k := 1) (by decide)
  have h20 := toneStep_other ((g.toneStep 0).toneStep 1) (j := 0) (k := 2) (by decide)
  have h21 := toneStep_other ((g.toneStep 0).toneStep 1) (j := 1) (k := 2) (by decide)
  unfold Psg.tones
  generalize ((g.toneStep 0).toneStep 1).toneStep 2 = t2 at *
  generalize (g.toneStep 0).toneStep 1 = t1 at *
  generalize g.toneStep 0 = t0 at *
  match k with
  | 0 => exact h0.congr rfl ⟨rfl, rfl⟩ ⟨h20.1.trans h10.1, h20.2.trans h10.2⟩
  | 1 => exact h1.congr r0 h01 h21
  | 2 => exact h2.congr r1 ⟨h12.1.trans h02.1, h12.2.trans h02.2⟩ ⟨rfl, rfl⟩

theorem stepped_generatorStepped (g : Psg) : GeneratorStepped g g.stepped := by
  have tones := tones_stepped g
  have noise := noiseStep_stepped g.tones
  have envelope := envelopeTick_ticked g.tones.noiseStep
  obtain ⟨c, o, et⟩ : ∃ c o, g.tones = { g with tcnt := c, tout := o } := ⟨_, _, g.tones_keeps⟩
  obtain ⟨n, l, en⟩ : ∃ n l, g.tones.noiseStep = { g.tones with ncnt := n, lfsr := l } := ⟨_, _, g.tones.noiseStep_keeps⟩
  obtain ⟨e, s, a, h, ee⟩ : ∃ e s a h, g.tones.noiseStep.envelopeTick =
      { g.tones.noiseStep with ecnt := e, estep := s, eattack := a, ehold := h } := ⟨_, _, _, _, Psg.envelopeTick_keeps _⟩
  rw [Psg.stepped, ee, en, et]
  rw [ee, en, et] at envelope
  rw [en, et] at noise
  rw [et] at tones
  exact ⟨fun k => (tones k).congr rfl ⟨rfl, rfl⟩ ⟨rfl, rfl⟩, noise.congr rfl rfl rfl rfl rfl,
    envelope.congr rfl rfl rfl rfl rfl, rfl, rfl, rfl⟩

/-- `g[k]` of the mix, its bits as digits of the registers (62 R533). -/
theorem heard_eq (g : Psg) (k : Fin 3) : heard g k = g.channelLevel k := by
  have hlevel : (g.levelReg k).getLsbD 4 = decide (psgNat g (8 + k.val) / 16 % 2 = 1) := getLsbD_eq_decide _ 4
  have hmixer : ∀ b, g.mixer b = decide (psgNat g 7 / 2 ^ b % 2 = 1) := fun b => getLsbD_eq_decide _ b
  have hnoise : g.lfsr.getLsbD 0 = decide (g.lfsr.toNat % 2 = 1) := by rw [getLsbD_eq_decide, pow_zero, Nat.div_one]
  simp only [heard, Psg.channelLevel, hlevel, hmixer, hnoise, Bool.and_eq_true, Bool.or_eq_true, decide_eq_true_eq]
  rfl

/-- The mix as a number: it never wraps. -/
theorem generatorStep_sample {p : Params} (h : p.legal = true) (g : Psg) :
    (g.generatorStep p.levelTable).sample.toNat = g.stepped.mix3 p.levelTable := by
  have hle := Psg.mix3_le h g.stepped
  rw [Psg.generatorStep_eq, BitVec.toNat_ofNat]
  omega

/-- Settles O56: `psgRun_count` for the first seven clocks, and `mix3_le` for the sample of the eighth. -/
theorem psgSamples : Obligations.PsgSamples := by
  unfold Obligations.PsgSamples
  intro p g hp hg
  have hstep := stepped_generatorStepped { g with div8 := 0 }
  refine ⟨fun k hk => psgRun_count hg hk, ?_⟩
  rw [psgRun_eight hg, generatorStep_sample hp, Psg.generatorStep_eq]
  generalize Psg.stepped { g with div8 := 0 } = h at *
  exact ⟨rfl, hstep.div8, Psg.mix3_le hp _, hstep.regs⟩

/-- Settles O60: the wrapping clock is a generator step, whose parts are `GeneratorStepped`. -/
theorem psgGeneratorStep : Obligations.PsgGeneratorStep := by
  unfold Obligations.PsgGeneratorStep
  intro p g hp hg
  have hstep := stepped_generatorStepped { g with div8 := 0 }
  have hsample := generatorStep_sample hp { g with div8 := 0 }
  have hwrap : g.div8 + 1 = 0 := by
    rw [hg]
    rfl
  rw [Psg.mix3, ← heard_eq, ← heard_eq, ← heard_eq] at hsample
  rw [Psg.clockCycle_wrap hwrap]
  rw [Psg.generatorStep_eq] at hsample ⊢
  obtain ⟨tones, noise, envelope, hregs, hsel, hdiv⟩ := hstep
  unfold ToneStepped at tones
  unfold NoiseStepped at noise
  unfold EnvelopeTicked at envelope
  generalize Psg.stepped { g with div8 := 0 } = h at *
  exact ⟨rfl, hdiv, hregs, hsel, rfl, tones, noise, envelope, hsample⟩
end
end Sys2Proof.Machine

namespace Sys2Proof.Machine

/-! # The SteDAC -/

section
open Claims

/-! ## The DMA engine (63 R580, R582) -/

section
variable {d : Dac}

theorem Dac.clockCycle_count (ha : d.dmaActive = true) (h : d.dmaRateCounter + 1 < d.threshold) :
    d.clockCycle = ({ d with dmaRateCounter := d.dmaRateCounter + 1 }, false, false) := by
  rw [Dac.clockCycle, ha]
  exact if_pos h

theorem Dac.clockCycle_advance (ha : d.dmaActive = true) (h : d.dmaRateCounter + 1 = d.threshold)
    (hn : d.dmaCurrent + (if d.dmaMono then 1 else 2) ≠ d.dmaEnd) : d.clockCycle =
      ({ d with dmaRateCounter := 0, dmaCurrent := d.dmaCurrent + (if d.dmaMono then 1 else 2) }, true, false) := by
  rw [Dac.clockCycle, ha]
  exact (if_neg h.not_lt).trans (if_neg hn)

theorem Dac.clockCycle_end (ha : d.dmaActive = true) (h : d.dmaRateCounter + 1 = d.threshold)
    (hn : d.dmaCurrent + (if d.dmaMono then 1 else 2) = d.dmaEnd) : d.clockCycle =
      ({ d with dmaRateCounter := 0, dmaCurrent := d.dmaBegin, dmaActive := d.dmaLoop }, true, true) := by
  rw [Dac.clockCycle, ha]
  exact (if_neg h.not_lt).trans (if_pos hn)
end

theorem dacTick_of_clockCycle {s : State} {d : Dac} {moved : Bool} (h : s.dac.clockCycle = (d, moved, false)) :
    dacTick s = { s with dac := d } := by
  rw [dacTick, h]
  rfl

theorem dacTick_of_end {s : State} {d : Dac} {moved : Bool} (h : s.dac.clockCycle = (d, moved, true)) :
    dacTick s = { s with dac := d, mfp := s.mfp.fireDmaEvent } := by
  rw [dacTick, h]
  rfl

/-- The bytes of an advance. -/
def Dac.advance (d : Dac) : Nat := if d.dmaMono then 1 else 2

/-- The engine `k` clocks into a buffer. -/
def Dac.played (d : Dac) (k : Nat) : Dac :=
  { d with
    dmaRateCounter := k % d.threshold
    dmaCurrent := d.dmaBegin + BitVec.ofNat 24 (k / d.threshold * d.advance) }

section
variable {d : Dac} {n k : Nat}

theorem Dac.threshold_pos (d : Dac) : 0 < d.threshold := by
  unfold Dac.threshold
  split <;> simp

theorem Dac.restarted (hr : d.dmaRateCounter = 0) (hc : d.dmaCurrent = d.dmaBegin) :
    { d with dmaRateCounter := 0, dmaCurrent := d.dmaBegin } = d := by
  cases d
  cases hr
  cases hc
  rfl

theorem Dac.played_zero (hr : d.dmaRateCounter = 0) (hc : d.dmaCurrent = d.dmaBegin) : d.played 0 = d := by
  rw [Dac.played, Nat.zero_mod, Nat.zero_div, Nat.zero_mul, BitVec.add_zero, Dac.restarted hr hc]

/-- `q` advances into a buffer of `n` of them the address has not wrapped. -/
theorem Dac.address_toNat (hend : d.dmaBegin.toNat + n * d.advance = d.dmaEnd.toNat) {q : Nat} (hq : q ≤ n) :
    (d.dmaBegin + BitVec.ofNat 24 (q * d.advance)).toNat = d.dmaBegin.toNat + q * d.advance := by
  have hle := Nat.mul_le_mul_right d.advance hq
  have hlt := d.dmaEnd.isLt
  rw [BitVec.toNat_add, BitVec.toNat_ofNat, Nat.add_mod_mod, Nat.mod_eq_of_lt (by omega)]

theorem Dac.address_succ (q : Nat) : d.dmaBegin + BitVec.ofNat 24 (q * d.advance) + (if d.dmaMono then 1 else 2) =
    d.dmaBegin + BitVec.ofNat 24 ((q + 1) * d.advance) := by
  have h : (if d.dmaMono then 1 else 2) = BitVec.ofNat 24 d.advance := (apply_ite (BitVec.ofNat 24) _ 1 2).symm
  rw [h, BitVec.add_assoc, ← BitVec.ofNat_add, Nat.succ_mul]

/-- The address meets the end at advance `n` and not before. -/
theorem Dac.address_eq_end (hend : d.dmaBegin.toNat + n * d.advance = d.dmaEnd.toNat) {q : Nat} (hq : q ≤ n) :
    d.dmaBegin + BitVec.ofNat 24 (q * d.advance) = d.dmaEnd ↔ q = n := by
  have hpos : 0 < d.advance := by
    unfold Dac.advance
    split <;> decide
  rw [← BitVec.toNat_inj, Dac.address_toNat hend hq, ← hend, Nat.add_left_cancel_iff, Nat.mul_left_inj hpos.ne']

/-- A clock inside the buffer. -/
theorem Dac.clockCycle_played (ha : d.dmaActive = true) (hend : d.dmaBegin.toNat + n * d.advance = d.dmaEnd.toNat)
    (hk : k + 1 < n * d.threshold) : ∃ moved, (d.played k).clockCycle = (d.played (k + 1), moved, false) := by
  have hq : (k + 1) / d.threshold < n := Nat.div_lt_of_lt_mul (Nat.mul_comm _ _ ▸ hk)
  rcases succ_div_mod d.threshold_pos k with ⟨h, hmod, hdiv⟩ | ⟨h, hmod, hdiv⟩
  · refine ⟨false, (Dac.clockCycle_count (d := d.played k) ha h).trans ?_⟩
    rw [Dac.played, Dac.played, hmod, hdiv]
  · have hnext := d.address_succ (k / d.threshold)
    rw [← hdiv] at hnext
    have hne := (Dac.address_eq_end hend hq.le).not.mpr hq.ne
    rw [← hnext] at hne
    refine ⟨true, (Dac.clockCycle_advance (d := d.played k) ha h hne).trans ?_⟩
    rw [Dac.played, Dac.played, hmod, ← hnext]

/-- The clock that ends the buffer. -/
theorem Dac.clockCycle_last (ha : d.dmaActive = true) (hr : d.dmaRateCounter = 0) (hc : d.dmaCurrent = d.dmaBegin)
    (hend : d.dmaBegin.toNat + n * d.advance = d.dmaEnd.toNat) (hk : k + 1 = n * d.threshold) :
    (d.played k).clockCycle = ({ d with dmaActive := d.dmaLoop }, true, true) := by
  have hq : (k + 1) / d.threshold = n := by rw [hk, Nat.mul_div_cancel _ d.threshold_pos]
  have hzero : (k + 1) % d.threshold = 0 := by rw [hk, Nat.mul_mod_left]
  rcases succ_div_mod d.threshold_pos k with ⟨h, hmod, hdiv⟩ | ⟨h, hmod, hdiv⟩
  · omega
  · have hlast := (Dac.address_eq_end hend hq.le).mpr hq
    rw [hdiv, ← Dac.address_succ] at hlast
    refine (Dac.clockCycle_end (d := d.played k) ha h hlast).trans ?_
    rw [← Dac.restarted hr hc]
    rfl

theorem dmaRun_played {s : State} (ha : s.dac.dmaActive = true) (hr : s.dac.dmaRateCounter = 0)
    (hc : s.dac.dmaCurrent = s.dac.dmaBegin) (hend : s.dac.dmaBegin.toNat + n * s.dac.advance = s.dac.dmaEnd.toNat)
    (hk : k < n * s.dac.threshold) : dmaRun k s = { s with dac := s.dac.played k } := by
  induction k with
  | zero =>
    rw [Dac.played_zero hr hc]
    rfl
  | succ k ih =>
    obtain ⟨moved, h⟩ := Dac.clockCycle_played ha hend hk
    rw [dmaRun, ih (by omega), dacTick_of_clockCycle (s := { s with dac := s.dac.played k }) h]
end

/-- Settles O54: `dmaRun_played` inside the buffer, and one more clock, the last one. -/
theorem dmaBufferEnds : Obligations.DmaBufferEnds := by
  unfold Obligations.DmaBufferEnds
  intro s n ha hr hc hn hend period
  have hpos : 0 < n * period := Nat.mul_pos hn s.dac.threshold_pos
  have hrun : ∀ k, k < n * period → dmaRun k s = { s with dac := s.dac.played k } :=
    fun k hk => dmaRun_played ha hr hc hend hk
  have hlast : dmaRun (n * period) s =
      { s with dac := { s.dac with dmaActive := s.dac.dmaLoop }, mfp := s.mfp.fireDmaEvent } := by
    obtain ⟨k, hk⟩ : ∃ k, k + 1 = n * period := ⟨n * period - 1, by omega⟩
    rw [← hk, dmaRun, hrun k (by omega)]
    exact dacTick_of_end (s := { s with dac := s.dac.played k }) (Dac.clockCycle_last ha hr hc hend hk)
  refine ⟨fun k hk => ?_, ?_⟩
  · rw [hrun k hk]
    have hq : k / period < n := Nat.div_lt_of_lt_mul (Nat.mul_comm _ _ ▸ hk)
    exact ⟨rfl, ha, Dac.address_toNat hend hq.le⟩
  · rw [hlast]
    refine ⟨rfl, ?_, fun j hj => Mfp.setPending_ipr _ hj⟩
    show (Mfp.setPending _ 15).timerA.eventFlag = true
    unfold Mfp.setPending
    split <;> rfl
end
end Sys2Proof.Machine

namespace Sys2Proof.Machine

/-! # The microwire of the SteDAC -/

section
open Claims

/-! ## Turning the mask (63 R575) -/

theorem turned_eq (m : Half) : m.rotateLeft 1 = turned m := by
  have hm := m.isLt
  apply BitVec.eq_of_toNat_eq
  rw [turned, BitVec.toNat_rotateLeft, BitVec.toNat_ofNat, Nat.shiftLeft_eq, Nat.shiftRight_eq_div_pow]
  have hlow : m.toNat / 2 ^ 15 < 2 ^ 1 := by omega
  have hshift : m.toNat * 2 % 0x10000 = 2 ^ 1 * (m.toNat % 0x8000) := by omega
  show m.toNat * 2 % 0x10000 ||| m.toNat / 2 ^ 15 = _
  rw [hshift, ← Nat.two_pow_add_eq_or_of_lt hlow]
  omega

/-- Bit `i` of a turned mask. -/
theorem getLsbD_turns (m : Half) {k i : Nat} (hk : k ≤ 16) (hi : i < 16) :
    (m.rotateLeft k).getLsbD i = m.getLsbD ((i + 16 - k) % 16) := by
  rw [BitVec.getLsbD_rotateLeft]
  by_cases h : i < k % 16
  · rw [decide_eq_true h, cond_true]
    congr 1
    omega
  · rw [decide_eq_false h, cond_false, decide_eq_true hi, Bool.true_and]
    congr 1
    omega

theorem rotateLeft_succ (m : Half) {k : Nat} (hk : k < 16) : (m.rotateLeft k).rotateLeft 1 = m.rotateLeft (k + 1) := by
  apply BitVec.eq_of_getLsbD_eq
  intro i hi
  rw [getLsbD_turns _ (by decide) hi, getLsbD_turns m hk.le (Nat.mod_lt _ (by decide)), getLsbD_turns m hk hi]
  congr 1
  omega

/-- No turn, or a whole one. -/
theorem rotateLeft_whole (m : Half) {k : Nat} (hk : k ≤ 16) (h : k % 16 = 0) : m.rotateLeft k = m := by
  apply BitVec.eq_of_getLsbD_eq
  intro i hi
  rw [getLsbD_turns m hk hi]
  congr 1
  omega

theorem Dac.microwireCycle_running {d : Dac} (h : 0 < d.mwCycles) :
    d.microwireCycle = { d with mwCycles := d.mwCycles - 1, mwMask := turned d.mwMask } := by
  rw [← turned_eq]
  exact if_pos h

theorem Dac.microwireCycle_idle {d : Dac} (h : ¬ 0 < d.mwCycles) : d.microwireCycle = d := if_neg h

theorem Dac.microwireCycle_mwMask (d : Dac) :
    d.microwireCycle.mwMask = if 0 < d.mwCycles then turned d.mwMask else d.mwMask := by
  split <;> rename_i h
  · rw [Dac.microwireCycle_running h]
  · rw [Dac.microwireCycle_idle h]

theorem Dac.microwireCycle_mwData (d : Dac) : d.microwireCycle.mwData = d.mwData := by
  obtain ⟨m, n, -, h⟩ := d.microwireCycle_eq
  rw [h]

/-! ## Reads on the bus (63 R562) -/

section
variable {s : State} {a : Word} {sz : Size} {o : Nat}

theorem memRead_at_dac (h : route a = some (.dac, o)) :
    memRead s a sz = ((s.dac.touch o sz).access o sz, { s with dac := s.dac.touch o sz }) := by
  simp only [memRead, h]

theorem coversPair_mask : coversPair o sz 0x24 = true ↔ o ≤ 0x25 ∧ 0x24 < o + byteCount sz := by
  simp [coversPair]

theorem route_of_coversMask (h : coversMask a sz) :
    ∃ o, route a = some (.dac, o) ∧ coversPair o sz 0x24 = true := by
  obtain ⟨h1, h2, h3⟩ := h
  have hr := route_dac (addr := a) h1 (by rw [Config.dacBase, Config.dacSize]; omega)
  refine ⟨_, hr, coversPair_mask.mpr ?_⟩
  rw [Config.dacBase]
  omega

theorem coversMask_of_route (h : route a = some (.dac, o)) (hc : coversPair o sz 0x24 = true) : coversMask a sz := by
  have ha := route_eq_dac h
  have ho := coversPair_mask.mp hc
  rw [Config.dacBase] at ha
  unfold coversMask
  omega

theorem memRead_covering (h : coversMask a sz) : (memRead s a sz).2 = { s with dac := s.dac.microwireCycle } := by
  obtain ⟨o, hr, hc⟩ := route_of_coversMask h
  rw [memRead_at_dac hr, Dac.touch, if_pos hc]

theorem memRead_not_covering (h : ¬ coversMask a sz) : (memRead s a sz).2 = s := by
  unfold memRead
  split <;> try rfl
  next o hr =>
    have hc : ¬ coversPair o sz 0x24 = true := fun hc => h (coversMask_of_route hr hc)
    simp only [Dac.touch, if_neg hc]
end

/-! ## What reads return (63 R561) -/

theorem half_toNat (x : Half) : (x.extractLsb' 8 8).toNat = x.toNat / 0x100 ∧ (x.extractLsb' 0 8).toNat = x.toNat % 0x100 := by
  have hx := x.isLt
  rw [BitVec.extractLsb'_toNat, BitVec.extractLsb'_toNat, Nat.shiftRight_eq_div_pow, Nat.shiftRight_zero]
  omega

section
variable (d : Dac)

theorem Dac.access_mask : (d.access 0x24 .w).toNat = d.mwMask.toNat := by
  obtain ⟨hi, lo⟩ := half_toNat d.mwMask
  rw [Dac.access, joinBytes_toNat]
  show (d.mwMask.extractLsb' 8 8).toNat * 256 + ((d.mwMask.extractLsb' 0 8).toNat * 1 + 0) = _
  omega

theorem Dac.access_maskHi : (d.access 0x24 .b).toNat = d.mwMask.toNat / 0x100 := by
  obtain ⟨hi, -⟩ := half_toNat d.mwMask
  rw [Dac.access, joinBytes_toNat]
  show (d.mwMask.extractLsb' 8 8).toNat * 1 + 0 = _
  omega

theorem Dac.access_maskLo : (d.access 0x25 .b).toNat = d.mwMask.toNat % 0x100 := by
  obtain ⟨-, lo⟩ := half_toNat d.mwMask
  rw [Dac.access, joinBytes_toNat]
  show (d.mwMask.extractLsb' 0 8).toNat * 1 + 0 = _
  omega

theorem Dac.access_data : (d.access 0x22 .w).toNat = d.mwData.toNat := by
  obtain ⟨hi, lo⟩ := half_toNat d.mwData
  rw [Dac.access, joinBytes_toNat]
  show (d.mwData.extractLsb' 8 8).toNat * 256 + ((d.mwData.extractLsb' 0 8).toNat * 1 + 0) = _
  omega

theorem Dac.access_dataMask : (d.access 0x22 .l).toNat = d.mwData.toNat * 0x10000 + d.mwMask.toNat := by
  obtain ⟨dhi, dlo⟩ := half_toNat d.mwData
  obtain ⟨mhi, mlo⟩ := half_toNat d.mwMask
  rw [Dac.access, joinBytes_toNat]
  show (d.mwData.extractLsb' 8 8).toNat * 0x1000000 + ((d.mwData.extractLsb' 0 8).toNat * 0x10000 +
    ((d.mwMask.extractLsb' 8 8).toNat * 0x100 + ((d.mwMask.extractLsb' 0 8).toNat * 1 + 0))) = _
  omega
end

/-- The mask word as the reads of a transaction find it. -/
theorem coversMask_word : coversMask 0x00FF8924 .w := ⟨by decide, by decide, by decide⟩

/-- `k` reads into a transaction (63 R575). -/
def Dac.afterReads (d : Dac) (k : Nat) : Dac :=
  { d with mwCycles := 16 - k, mwMask := d.mwMask.rotateLeft (min k 16) }

theorem Dac.afterReads_zero {d : Dac} (h : d.mwCycles = 16) : d.afterReads 0 = d := by
  have hz : d.mwMask.rotateLeft (min 0 16) = d.mwMask := rotateLeft_whole _ (by decide) rfl
  rw [Dac.afterReads, hz, Nat.sub_zero, ← h]

theorem Dac.microwireCycle_afterReads (d : Dac) (k : Nat) : (d.afterReads k).microwireCycle = d.afterReads (k + 1) := by
  by_cases hk : k < 16
  · have hrun : 0 < (d.afterReads k).mwCycles := Nat.sub_pos_of_lt hk
    rw [Dac.microwireCycle_running hrun, ← turned_eq]
    show { d with mwCycles := 16 - k - 1, mwMask := (d.mwMask.rotateLeft (min k 16)).rotateLeft 1 } = _
    rw [min_eq_left hk.le, rotateLeft_succ _ hk, Dac.afterReads, min_eq_left (Nat.succ_le_of_lt hk)]
    rfl
  · have hidle : ¬ 0 < (d.afterReads k).mwCycles := fun h => hk (Nat.lt_of_sub_pos h)
    rw [Dac.microwireCycle_idle hidle, Dac.afterReads, Dac.afterReads, min_eq_right (by omega), min_eq_right (by omega),
      show 16 - k = 16 - (k + 1) by omega]

theorem Dac.afterReads_all (d : Dac) {k : Nat} (hk : 16 ≤ k) : d.afterReads k = { d with mwCycles := 0 } := by
  rw [Dac.afterReads, min_eq_right hk, rotateLeft_whole _ le_rfl rfl, Nat.sub_eq_zero_of_le hk]

theorem maskReads_eq {s : State} (h : s.dac.mwCycles = 16) (k : Nat) :
    maskReads k s = { s with dac := s.dac.afterReads k } := by
  induction k with
  | zero =>
    rw [Dac.afterReads_zero h]
    rfl
  | succ k ih => rw [maskReads, ih, memRead_covering coversMask_word, Dac.microwireCycle_afterReads]

/-- What a read of the mask or of the data returns is read after its cycle (63 R562). -/
theorem memRead_value {s : State} {a : Word} {sz : Size} {o : Nat} (h : route a = some (.dac, o))
    (hc : coversPair o sz 0x24 = true) : (memRead s a sz).1 = s.dac.microwireCycle.access o sz := by
  rw [memRead_at_dac h, Dac.touch, if_pos hc]

theorem memRead_mask (s : State) : (memRead s 0x00FF8924 .w).1.toNat = s.dac.microwireCycle.mwMask.toNat := by
  rw [memRead_value (o := 0x24) (by decide) (by decide), Dac.access_mask]

/-! ## A transaction (63 R573) -/

/-- `w` bits in a row from bit `k` up. -/
theorem getLsbD_window {w k : Nat} (hw : w + k ≤ 16) (i : Nat) :
    (BitVec.ofNat 16 ((2 ^ w - 1) * 2 ^ k)).getLsbD i = decide (k ≤ i ∧ i < k + w) := by
  rw [BitVec.getLsbD_ofNat, Nat.testBit_mul_two_pow, Nat.testBit_two_pow_sub_one, ← Bool.decide_and, ← Bool.decide_and,
    decide_eq_decide]
  omega

/-- A window of the mask condenses to the same window of the data. -/
theorem condense_window (data : Half) {w k : Nat} (hw : w + k ≤ 16) :
    condense data (BitVec.ofNat 16 ((2 ^ w - 1) * 2 ^ k)) = (data.toNat / 2 ^ k % 2 ^ w, w) := by
  have hprefix : ∀ j, (List.range j).foldl (fun acc i =>
      if (BitVec.ofNat 16 ((2 ^ w - 1) * 2 ^ k)).getLsbD i then (acc.1 + bitNat (data.getLsbD i) * 2 ^ acc.2, acc.2 + 1)
      else acc) (0, 0) = (data.toNat / 2 ^ k % 2 ^ min (j - k) w, min (j - k) w) := by
    intro j
    induction j with
    | zero => simp [Nat.mod_one]
    | succ j ih =>
      rw [List.range_succ, List.foldl_append, ih, List.foldl_cons, List.foldl_nil, getLsbD_window hw]
      by_cases h : k ≤ j ∧ j < k + w
      · have hbit : bitNat (data.getLsbD j) = data.toNat / 2 ^ k / 2 ^ (j - k) % 2 := by
          rw [getLsbD_eq_decide, Nat.div_div_eq_div_mul, ← Nat.pow_add, Nat.add_sub_cancel' h.1]
          rcases Nat.mod_two_eq_zero_or_one (data.toNat / 2 ^ j) with e | e <;> rw [e] <;> rfl
        rw [decide_eq_true h, if_pos rfl, min_eq_left (by omega), show min (j + 1 - k) w = j - k + 1 by omega,
          Nat.mod_pow_succ, hbit, Nat.mul_comm (2 ^ (j - k))]
      · rw [decide_eq_false h, if_neg Bool.false_ne_true, show min (j + 1 - k) w = min (j - k) w by omega]
  rw [condense, hprefix, min_eq_right (by omega)]

theorem volumeOf_eq (x : Nat) : volumeOf x = min 64 (x * 64 / 40) := by
  unfold volumeOf
  split <;> omega

/-- A word write of the data register (63 R562, R573). -/
theorem Dac.store_data (d : Dac) (v : Word) :
    d.store 0x22 .w v = Dac.startTransaction { d with mwData := v.setWidth 16 } := by
  have hv : (byteOf .w v 0 ++ d.mwData.extractLsb' 0 8).extractLsb' 8 8 ++ byteOf .w v 1 = v.setWidth 16 := by
    apply BitVec.eq_of_toNat_eq
    rw [append_toNat, BitVec.extractLsb'_toNat, append_toNat, byteOf_toNat, byteOf_toNat, BitVec.extractLsb'_toNat,
      BitVec.toNat_setWidth, Nat.shiftRight_eq_div_pow]
    show _ = v.toNat % 65536
    simp only [byteCount]
    norm_num only
    omega
  rw [← hv]
  rfl

theorem Dac.startTransaction_volume {d : Dac} {x : Nat} (hx : x < 64)
    (h : condense d.mwData d.mwMask = (0x4C0 + x, 11)) :
    d.startTransaction = { d with mwCycles := 16, mainVolume := BitVec.ofNat 8 (volumeOf x) } := by
  have hreg : (0x4C0 + x) / 512 % 4 = 2 := by omega
  have hnum : (0x4C0 + x) / 64 % 8 = 3 := by omega
  have hlow : (0x4C0 + x) % 64 = x := by omega
  simp only [Dac.startTransaction, h, hreg, hnum, hlow, and_self, if_true]

/-- Settles O53: one read is a cycle of the microwire, `k` of them are `Dac.afterReads`, and a mask of eleven bits in a row
condenses to the command itself. -/
theorem microwireTransaction : Obligations.MicrowireTransaction := by
  unfold Obligations.MicrowireTransaction
  refine ⟨fun s a sz => ⟨fun hc hn => ?running, fun h => ?other⟩, fun s => ?values,
    fun s k h => ⟨maskReads_eq h k, fun hk => ?whole⟩, fun s x k hk hm hx => ?command⟩
  case running => rw [memRead_covering hc, Dac.microwireCycle_running hn]
  case other =>
    by_cases hc : coversMask a sz
    · rw [memRead_covering hc, Dac.microwireCycle_idle fun hn => h ⟨hc, hn⟩]
    · exact memRead_not_covering hc
  case values =>
    intro m
    have hm : s.dac.microwireCycle.mwMask.toNat = m := congrArg BitVec.toNat s.dac.microwireCycle_mwMask
    rw [← hm, ← s.dac.microwireCycle_mwData]
    refine ⟨memRead_mask s, ?_, ?_, ?_, ?_⟩
    · rw [memRead_value (o := 0x24) (by decide) (by decide), Dac.access_maskHi]
    · rw [memRead_value (o := 0x25) (by decide) (by decide), Dac.access_maskLo]
    · rw [memRead_value (o := 0x22) (by decide) (by decide), Dac.access_dataMask]
    · have hc : ¬ coversPair 0x22 .w 0x24 = true := by decide
      rw [memRead_at_dac (o := 0x22) (by decide), Dac.touch, if_neg hc, Dac.access_data, Dac.microwireCycle_mwData]
  case whole =>
    rw [maskReads_eq h, maskReads_eq h, Dac.afterReads_all _ hk, memRead_mask]
    refine ⟨rfl, ?_⟩
    show ((s.dac.afterReads (k - 1)).microwireCycle).mwMask.toNat = _
    rw [Dac.microwireCycle_afterReads, Dac.afterReads_all _ (by omega)]
  case command =>
    have hpow : 2 ^ k ≤ 2 ^ 5 := Nat.pow_le_pow_right (by decide) hk
    have hfit : (0x4C0 + x) * 2 ^ k < 2 ^ 16 :=
      (Nat.mul_le_mul (show 0x4C0 + x ≤ 0x4FF by omega) hpow).trans_lt (by decide)
    have hdata : ((BitVec.ofNat 32 ((0x4C0 + x) * 2 ^ k)).setWidth 16).toNat = (0x4C0 + x) * 2 ^ k := by
      rw [BitVec.toNat_setWidth, BitVec.toNat_ofNat]
      omega
    generalize (BitVec.ofNat 32 ((0x4C0 + x) * 2 ^ k)) = v at hdata
    have hcommand : condense (v.setWidth 16) s.dac.mwMask = (0x4C0 + x, 11) := by
      rw [hm]
      refine (condense_window (v.setWidth 16) (w := 11) (k := k) (by omega)).trans ?_
      rw [hdata, Nat.mul_div_cancel _ (Nat.two_pow_pos k),
        Nat.mod_eq_of_lt (show 0x4C0 + x < 2 ^ 11 by omega)]
    have hstore := Dac.startTransaction_volume (d := { s.dac with mwData := v.setWidth 16 }) hx hcommand
    rw [← Dac.store_data] at hstore
    have hwrite : memWrite s 0x00FF8922 .w v = .ok { s with dac := s.dac.store 0x22 .w v } := by
      have hr : route 0x00FF8922 = some (.dac, 0x22) := by decide
      simp only [memWrite, hr]
    refine ⟨_, hwrite, ?_⟩
    rw [hstore]
    refine ⟨rfl, ?_, hdata, rfl⟩
    show (BitVec.ofNat 8 (volumeOf x)).toNat = _
    rw [volumeOf_eq, BitVec.toNat_ofNat]
    omega

end
end Sys2Proof.Machine

namespace Sys2Proof

/-! # The decoder and the encoder

A row of the table and a constructor of `Instr` are the same relation between words and instructions (`Row.Obeys`), so
that `decode` and `encode` are inverse to each other as soon as no word is read by two rows of a line. -/

/-! ## Fields and their codes -/

theorem ofNat_eq_iff {x : Nat} {w : Half} (h : x < 0x10000) : BitVec.ofNat 16 x = w ↔ x = w.toNat := by
  rw [← BitVec.toNat_inj, BitVec.toNat_ofNat, Nat.mod_eq_of_lt h]

theorem sizeCode_lt (sz : Size) : sizeCode sz < 3 := by cases sz <;> decide

theorem eaMode_lt (e : Ea) : eaMode e < 8 := by
  cases e <;> simp only [eaMode] <;> omega

theorem eaReg_lt (e : Ea) : eaReg e < 8 := by
  cases e <;> simp only [eaReg] <;> omega

theorem regAt_eq_iff {w : Half} {lo : Nat} {n : Reg} : regAt w lo = n ↔ fieldAt w lo 3 = n.val := by
  have h : fieldAt w lo 3 < 8 := Nat.mod_lt _ (by decide)
  rw [Fin.ext_iff, regAt, Fin.val_ofNat, Nat.mod_eq_of_lt h]

theorem sizeAt_eq_iff {w : Half} {sz : Size} : sizeAt w = some sz ↔ fieldAt w 6 2 = sizeCode sz := by
  have h : fieldAt w 6 2 < 4 := Nat.mod_lt _ (by decide)
  unfold sizeAt
  generalize fieldAt w 6 2 = f at h
  interval_cases f <;> cases sz <;> decide

/-- The field of each of the 64 codes that name a mode is that mode's own (30_encoding R123). -/
theorem eaOf_codes : ∀ m r : Fin 8, ∀ e ∈ eaOf m.val r, m.val = eaMode e ∧ r.val = eaReg e := by decide

theorem eaOf_eq_iff {m : Nat} {r : Reg} {e : Ea} (hm : m < 8) : eaOf m r = some e ↔ m = eaMode e ∧ r.val = eaReg e := by
  refine ⟨eaOf_codes ⟨m, hm⟩ r e, ?_⟩
  rintro ⟨rfl, h⟩
  cases e with
  | absW | absL | pcDisp | pcIndex | imm => simp only [eaReg] at h; simp only [eaOf, eaMode, h]
  | _ n => rw [show r = n from Fin.ext h]; rfl

theorem eaAt_eq_iff {allowed : Ea → Bool} {w : Half} {e : Ea} :
    eaAt allowed w = some e ↔ allowed e = true ∧ fieldAt w 0 6 = eaCode e := by
  have hm : fieldAt w 3 3 < 8 := Nat.mod_lt _ (by decide)
  have hr := eaReg_lt e
  have hcode : fieldAt w 0 6 = eaCode e ↔ eaOf (fieldAt w 3 3) (regAt w 0) = some e := by
    rw [eaOf_eq_iff hm, regAt, Fin.val_ofNat, eaCode]
    simp only [fieldAt]
    omega
  have hfilter : eaAt allowed w = (eaOf (fieldAt w 3 3) (regAt w 0)).filter allowed := by
    unfold eaAt
    cases eaOf (fieldAt w 3 3) (regAt w 0) <;> rfl
  rw [hcode, hfilter, Option.filter_eq_some_iff, and_comm]

theorem eaDstAt_eq_iff {allowed : Ea → Bool} {w : Half} {e : Ea} :
    eaDstAt allowed w = some e ↔ allowed e = true ∧ fieldAt w 6 3 = eaMode e ∧ fieldAt w 9 3 = eaReg e := by
  have hm : fieldAt w 6 3 < 8 := Nat.mod_lt _ (by decide)
  have hr : (regAt w 9).val = fieldAt w 9 3 := (regAt_eq_iff.mp rfl).symm
  have hfilter : eaDstAt allowed w = (eaOf (fieldAt w 6 3) (regAt w 9)).filter allowed := by
    unfold eaDstAt
    cases eaOf (fieldAt w 6 3) (regAt w 9) <;> rfl
  rw [hfilter, Option.filter_eq_some_iff, and_comm, eaOf_eq_iff hm, hr]

theorem condAt_eq_iff {w : Half} {c : Cond} : condAt w = c ↔ fieldAt w 8 4 = condCode c := by
  have h : fieldAt w 8 4 < 16 := Nat.mod_lt _ (by decide)
  unfold condAt
  generalize fieldAt w 8 4 = f at h
  interval_cases f <;> cases c <;> decide

theorem byteAt_eq_iff {w : Half} {d : Byte} : byteAt w = d ↔ fieldAt w 0 8 = d.toNat := by
  rw [← BitVec.toNat_inj, byteAt, BitVec.toNat_ofNat, fieldAt, pow_zero, Nat.div_one]

theorem pairAt_eq_iff {w : Half} {m : PairMode} : pairAt w = m ↔ fieldAt w 3 1 = pairCode m / 8 := by
  have h : fieldAt w 3 1 < 2 := Nat.mod_lt _ (by decide)
  unfold pairAt
  generalize fieldAt w 3 1 = f at h
  interval_cases f <;> cases m <;> decide

/-- A flag of one bit. -/
theorem bitAt_eq_iff {w : Half} {lo : Nat} {b : Bool} : (fieldAt w lo 1 == 1) = b ↔ fieldAt w lo 1 = b.toNat := by
  have h : fieldAt w lo 1 < 2 := Nat.mod_lt _ (by decide)
  generalize fieldAt w lo 1 = f at h
  interval_cases f <;> cases b <;> decide

theorem bitCode_eq (b : Bool) (n : Nat) : bitCode b n = 2 ^ n * b.toNat := by cases b <;> simp [bitCode]

theorem countAt_eq_iff {w : Half} {c : ShiftCount} :
    countAt w = c ↔ fieldAt w 5 1 = countCode c / 32 % 2 ∧ fieldAt w 9 3 = countCode c / 512 := by
  have h : fieldAt w 5 1 < 2 := Nat.mod_lt _ (by decide)
  unfold countAt
  split <;> cases c <;>
    simp only [ShiftCount.imm.injEq, ShiftCount.reg.injEq, reduceCtorEq, false_iff, regAt_eq_iff, countCode] <;> omega

theorem pairCode_cases (m : PairMode) : pairCode m = 0 ∨ pairCode m = 8 := by
  cases m with
  | regs => exact .inl rfl
  | predec => exact .inr rfl

theorem countCode_cases (c : ShiftCount) : ∃ n : Reg, countCode c = n.val * 512 ∨ countCode c = n.val * 512 + 32 := by
  cases c with
  | imm n => exact ⟨n, .inl rfl⟩
  | reg n => exact ⟨n, .inr rfl⟩

theorem eaCode_lt (e : Ea) : eaCode e < 64 := by
  have hm := eaMode_lt e
  have hr := eaReg_lt e
  rw [eaCode]
  omega

theorem pairCode_div_lt (m : PairMode) : pairCode m / 8 < 2 := by cases m <;> decide

theorem countCode_div_lt (c : ShiftCount) : countCode c / 512 < 8 := by
  obtain ⟨n, h⟩ := countCode_cases c
  omega

theorem condCode_lt (c : Cond) : condCode c < 16 := by cases c <;> decide

/-! ## Formats (30_encoding R150) -/

/-- The pieces of a word from bit 0 up: the width of each, and its code, or `none` where the row fixes it. -/
abbrev Format := List (Nat × Option Nat)

/-- The bits that the row fixes. -/
def Format.mask : Format → Nat
  | [] => 0
  | (n, none) :: rest => 2 ^ n - 1 + 2 ^ n * mask rest
  | (n, some _) :: rest => 2 ^ n * mask rest

/-- The codes, each in its place. -/
def Format.value : Format → Nat
  | [] => 0
  | (n, none) :: rest => 2 ^ n * value rest
  | (n, some c) :: rest => c + 2 ^ n * value rest

def Format.width : Format → Nat
  | [] => 0
  | (n, _) :: rest => n + width rest

/-- No code is wider than its piece. -/
def Format.Fits : Format → Prop
  | [] => True
  | (_, none) :: rest => Fits rest
  | (n, some c) :: rest => c < 2 ^ n ∧ Fits rest

/-- The fields of a word from bit `lo` up are the codes. -/
def Format.Holds (w : Half) : Nat → Format → Prop
  | _, [] => True
  | lo, (n, none) :: rest => Holds w (lo + n) rest
  | lo, (n, some c) :: rest => fieldAt w lo n = c ∧ Holds w (lo + n) rest

theorem Format.mask_add_value_lt {f : Format} (hf : f.Fits) : f.mask + f.value < 2 ^ f.width := by
  induction f with
  | nil => exact Nat.one_pos
  | cons q rest ih =>
    obtain ⟨n, _ | c⟩ := q
    · have hn := Nat.two_pow_pos n
      have h := Nat.mul_le_mul_left (2 ^ n) (Nat.succ_le_of_lt (ih hf))
      rw [Format.mask, Format.value, Format.width, Nat.pow_add]
      rw [Nat.mul_succ, Nat.mul_add] at h
      omega
    · obtain ⟨hc, hf⟩ := hf
      have h := Nat.mul_le_mul_left (2 ^ n) (Nat.succ_le_of_lt (ih hf))
      rw [Format.mask, Format.value, Format.width, Nat.pow_add]
      rw [Nat.mul_succ, Nat.mul_add] at h
      omega

/-- A number by its low piece and the rest. -/
theorem eq_pieces_iff {n a q x : Nat} (ha : a < 2 ^ n) : a + 2 ^ n * q = x ↔ x % 2 ^ n = a ∧ q = x / 2 ^ n := by
  constructor
  · rintro rfl
    rw [Nat.add_mul_mod_self_left, Nat.mod_eq_of_lt ha, Nat.add_mul_div_left _ _ (Nat.two_pow_pos n),
      Nat.div_eq_of_lt ha, Nat.zero_add]
    exact ⟨rfl, rfl⟩
  · rintro ⟨rfl, rfl⟩
    exact Nat.mod_add_div x _

/-- A masked number by its low piece and the rest. -/
theorem and_pieces_iff {n r m x y : Nat} (hr : r < 2 ^ n) :
    x &&& (r + 2 ^ n * m) = y ↔ x % 2 ^ n &&& r = y % 2 ^ n ∧ x / 2 ^ n &&& m = y / 2 ^ n := by
  obtain ⟨hmod, hdiv⟩ := (eq_pieces_iff hr).mp (rfl : r + 2 ^ n * m = _)
  rw [← Nat.mod_add_div (x &&& (r + 2 ^ n * m)) (2 ^ n),
    eq_pieces_iff (Nat.mod_lt _ (Nat.two_pow_pos n)), Nat.and_mod_two_pow, Nat.and_div_two_pow, hmod, ← hdiv,
    eq_comm (a := y % 2 ^ n)]

/-- A number is what the row fixes plus the codes exactly when its fixed bits are the row's and its fields are
the codes. -/
theorem Format.add_value_eq_iff {f : Format} (hf : f.Fits) {p lo : Nat} (hp : p &&& f.mask = p) {w : Half}
    (hw : w.toNat / 2 ^ lo < 2 ^ f.width) :
    p + f.value = w.toNat / 2 ^ lo ↔ w.toNat / 2 ^ lo &&& f.mask = p ∧ f.Holds w lo := by
  induction f generalizing p lo with
  | nil =>
    have hx : w.toNat / 2 ^ lo = 0 := Nat.lt_one_iff.mp hw
    rw [hx, Format.mask, Nat.zero_and]
    exact ⟨fun h => ⟨h.symm, trivial⟩, fun ⟨h, _⟩ => h.symm⟩
  | cons q rest ih =>
    obtain ⟨n, o⟩ := q
    have hpos := Nat.two_pow_pos n
    have hshift : w.toNat / 2 ^ lo / 2 ^ n = w.toNat / 2 ^ (lo + n) := by rw [Nat.div_div_eq_div_mul, Nat.pow_add]
    have hrest : w.toNat / 2 ^ (lo + n) < 2 ^ Format.width rest := by
      rw [← hshift]
      exact Nat.div_lt_of_lt_mul (by rwa [← Nat.pow_add])
    cases o with
    | none =>
      rw [Format.mask, and_pieces_iff (Nat.sub_one_lt hpos.ne')] at hp
      obtain ⟨-, hp⟩ := hp
      have hsum : p + Format.value ((n, none) :: rest) = p % 2 ^ n + 2 ^ n * (p / 2 ^ n + Format.value rest) := by
        rw [Format.value, Nat.mul_add, ← Nat.add_assoc, Nat.mod_add_div]
      rw [hsum, eq_pieces_iff (Nat.mod_lt _ hpos), Format.mask, and_pieces_iff (Nat.sub_one_lt hpos.ne'),
        Nat.and_two_pow_sub_one_eq_mod, Nat.mod_mod, hshift, ih hf hp hrest, Format.Holds, and_assoc]
    | some c =>
      obtain ⟨hc, hf⟩ := hf
      rw [Format.mask, ← Nat.zero_add (2 ^ n * _), and_pieces_iff hpos, Nat.and_zero] at hp
      obtain ⟨hlow, hp⟩ := hp
      have hsum : p + Format.value ((n, some c) :: rest) = c + 2 ^ n * (p / 2 ^ n + Format.value rest) := by
        rw [Format.value, Nat.mul_add, Nat.mul_div_cancel' (Nat.dvd_of_mod_eq_zero hlow.symm)]
        omega
      rw [hsum, eq_pieces_iff hc, Format.mask, ← Nat.zero_add (2 ^ n * _), and_pieces_iff hpos, Nat.and_zero, hshift,
        ih hf hp hrest, Format.Holds, fieldAt, and_iff_right hlow, and_left_comm]

/-- The word of a format, field by field. -/
theorem Format.word_eq_iff (f : Format) {p mask w : Half} {x : Nat} (hmask : f.mask = mask.toNat)
    (hp : p &&& mask = p) (hwidth : f.width = 16) (hf : f.Fits) (hx : x = p.toNat + f.value) :
    BitVec.ofNat 16 x = w ↔ w &&& mask = p ∧ f.Holds w 0 := by
  have hpn : p.toNat &&& f.mask = p.toNat := by rw [hmask, ← BitVec.toNat_and, hp]
  have hle : p.toNat ≤ f.mask := hpn ▸ Nat.and_le_right
  have hlt := Format.mask_add_value_lt hf
  have hw : w.toNat / 2 ^ 0 < 2 ^ f.width := by
    rw [hwidth, pow_zero, Nat.div_one]
    exact w.isLt
  have h := Format.add_value_eq_iff hf hpn hw
  rw [pow_zero, Nat.div_one, hmask, ← BitVec.toNat_and, BitVec.toNat_inj] at h
  rw [hwidth] at hlt
  rw [← h, ← BitVec.toNat_inj, BitVec.toNat_ofNat, hx, Nat.mod_eq_of_lt (by omega)]

/-! ## Rows and constructors -/

/-- What the lists of rows are checked for: a row's match and mask, the constructor it reads, by its number, and masked
values that the words it reads never have. -/
structure Entry where
  mtch : Half
  mask : Half
  ctor : Nat
  bars : List (Half × Half)

/-- A row reads exactly the words of the well-formed instructions of one constructor. -/
structure Row.Obeys (r : Row) (e : Entry) : Prop where
  decode_iff : ∀ w i, r.decode w = some i ↔ i.ctorIdx = e.ctor ∧ i.wf = true ∧ encode i = w
  masked : ∀ w i, r.decode w = some i → w &&& e.mask = e.mtch
  barred : ∀ w i, r.decode w = some i → ∀ b ∈ e.bars, w &&& b.1 ≠ b.2

theorem Row.decode_eq_iff {r : Row} {w : Half} {i : Instr} :
    r.decode w = some i ↔ w &&& r.mask = r.mtch ∧ r.read w = some i := by
  rw [Row.decode, ite_eq_iff]
  simp

/-- Constructor number `c` is `form`; its well-formed members are those `ok` accepts, and their words are `code`. -/
structure CtorForm {P : Type} (form : P → Instr) (c : Nat) (ok : P → Bool) (code : P → Nat) : Prop where
  onto : ∀ i, i.ctorIdx = c → ∃ q, form q = i
  ctor : ∀ q, (form q).ctorIdx = c
  wf : ∀ q, (form q).wf = ok q
  word : ∀ q, encode (form q) = BitVec.ofNat 16 (code q)

/-! The same from the constructor's eliminator, by its number of arguments. -/

theorem CtorForm.of0 {k : Instr} {c : Nat} {ok : Unit → Bool} {code : Unit → Nat}
    (elim : ∀ {motive : Instr → Prop} i, i.ctorIdx = c → motive k → motive i) (ctor : k.ctorIdx = c := by rfl)
    (wf : k.wf = ok () := by rfl) (word : encode k = BitVec.ofNat 16 (code ()) := by rfl) :
    CtorForm (fun _ => k) c ok code :=
  ⟨fun i h => elim (motive := fun i => ∃ _ : Unit, k = i) i h ⟨(), rfl⟩, fun _ => ctor, fun _ => wf, fun _ => word⟩

theorem CtorForm.of1 {α : Type} {k : α → Instr} {c : Nat} {ok : α → Bool} {code : α → Nat}
    (elim : ∀ {motive : Instr → Prop} i, i.ctorIdx = c → (∀ a, motive (k a)) → motive i)
    (ctor : ∀ a, (k a).ctorIdx = c := by intros; rfl)
    (wf : ∀ a, (k a).wf = ok a := by intros; rfl)
    (word : ∀ a, encode (k a) = BitVec.ofNat 16 (code a) := by intros; rfl) :
    CtorForm (fun q : α => k q) c ok code :=
  ⟨fun i h => elim (motive := fun i => ∃ q : α, k q = i) i h fun a => ⟨a, rfl⟩,
    fun q => ctor q, fun q => wf q, fun q => word q⟩

theorem CtorForm.of2 {α β : Type} {k : α → β → Instr} {c : Nat} {ok : α × β → Bool} {code : α × β → Nat}
    (elim : ∀ {motive : Instr → Prop} i, i.ctorIdx = c → (∀ a b, motive (k a b)) → motive i)
    (ctor : ∀ a b, (k a b).ctorIdx = c := by intros; rfl)
    (wf : ∀ a b, (k a b).wf = ok (a, b) := by intros; rfl)
    (word : ∀ a b, encode (k a b) = BitVec.ofNat 16 (code (a, b)) := by intros; rfl) :
    CtorForm (fun q : α × β => k q.1 q.2) c ok code :=
  ⟨fun i h => elim (motive := fun i => ∃ q : α × β, k q.1 q.2 = i) i h fun a b => ⟨(a, b), rfl⟩,
    fun q => ctor q.1 q.2, fun q => wf q.1 q.2, fun q => word q.1 q.2⟩

theorem CtorForm.of3 {α β γ : Type} {k : α → β → γ → Instr} {c : Nat} {ok : α × β × γ → Bool} {code : α × β × γ → Nat}
    (elim : ∀ {motive : Instr → Prop} i, i.ctorIdx = c → (∀ a b d, motive (k a b d)) → motive i)
    (ctor : ∀ a b d, (k a b d).ctorIdx = c := by intros; rfl)
    (wf : ∀ a b d, (k a b d).wf = ok (a, b, d) := by intros; rfl)
    (word : ∀ a b d, encode (k a b d) = BitVec.ofNat 16 (code (a, b, d)) := by intros; rfl) :
    CtorForm (fun q : α × β × γ => k q.1 q.2.1 q.2.2) c ok code :=
  ⟨fun i h => elim (motive := fun i => ∃ q : α × β × γ, k q.1 q.2.1 q.2.2 = i) i h fun a b d => ⟨(a, b, d), rfl⟩,
    fun q => ctor q.1 q.2.1 q.2.2, fun q => wf q.1 q.2.1 q.2.2, fun q => word q.1 q.2.1 q.2.2⟩

theorem CtorForm.of4 {α β γ δ : Type} {k : α → β → γ → δ → Instr} {c : Nat} {ok : α × β × γ × δ → Bool}
    {code : α × β × γ × δ → Nat}
    (elim : ∀ {motive : Instr → Prop} i, i.ctorIdx = c → (∀ a b d e, motive (k a b d e)) → motive i)
    (ctor : ∀ a b d e, (k a b d e).ctorIdx = c := by intros; rfl)
    (wf : ∀ a b d e, (k a b d e).wf = ok (a, b, d, e) := by intros; rfl)
    (word : ∀ a b d e, encode (k a b d e) = BitVec.ofNat 16 (code (a, b, d, e)) := by intros; rfl) :
    CtorForm (fun q : α × β × γ × δ => k q.1 q.2.1 q.2.2.1 q.2.2.2) c ok code :=
  ⟨fun i h => elim (motive := fun i => ∃ q : α × β × γ × δ, k q.1 q.2.1 q.2.2.1 q.2.2.2 = i) i h
      fun a b d e => ⟨(a, b, d, e), rfl⟩,
    fun q => ctor q.1 q.2.1 q.2.2.1 q.2.2.2, fun q => wf q.1 q.2.1 q.2.2.1 q.2.2.2,
    fun q => word q.1 q.2.1 q.2.2.1 q.2.2.2⟩

/-- A row whose fields are those of a format reads the constructor of that format. -/
theorem Row.obeys_of_format {P : Type} {form : P → Instr} {ok : P → Bool} {code : P → Nat} {c : Nat} {p mask : Half}
    {read : Half → Option Instr} {bars : List (Half × Half)} (hform : CtorForm form c ok code) (f : P → Format)
    (hp : p &&& mask = p) (fits : ∀ q, (f q).Fits)
    (sound : ∀ w i, w &&& mask = p → read w = some i → ∃ q, form q = i ∧ ok q = true ∧ (f q).Holds w 0)
    (complete : ∀ w q, w &&& mask = p → ok q = true → (f q).Holds w 0 → read w = some (form q))
    (barred : ∀ w q, w &&& mask = p → ok q = true → (f q).Holds w 0 → ∀ b ∈ bars, w &&& b.1 ≠ b.2)
    (value : ∀ q, code q = p.toNat + (f q).value := by intro q; simp only [Format.value]; omega)
    (hmask : ∀ q, (f q).mask = mask.toNat := by intro _; rfl) (hwidth : ∀ q, (f q).width = 16 := by intro _; rfl) :
    Row.Obeys ⟨p, mask, read⟩ ⟨p, mask, c, bars⟩ := by
  have hword : ∀ q w, encode (form q) = w ↔ w &&& mask = p ∧ (f q).Holds w 0 := fun q w => by
    rw [hform.word q]
    exact (f q).word_eq_iff (hmask q) hp (hwidth q) (fits q) (value q)
  refine ⟨fun w i => ?_, fun w i h => (Row.decode_eq_iff.mp h).1, fun w i h => ?_⟩
  · rw [Row.decode_eq_iff]
    constructor
    · rintro ⟨hm, h⟩
      obtain ⟨q, rfl, hok, hq⟩ := sound w i hm h
      exact ⟨hform.ctor q, (hform.wf q).trans hok, (hword q w).mpr ⟨hm, hq⟩⟩
    · rintro ⟨hc, hwf, rfl⟩
      obtain ⟨q, rfl⟩ := hform.onto i hc
      obtain ⟨hm, hq⟩ := (hword q _).mp rfl
      exact ⟨hm, complete _ q hm ((hform.wf q).symm.trans hwf) hq⟩
  · obtain ⟨hm, h⟩ := Row.decode_eq_iff.mp h
    obtain ⟨q, -, hok, hq⟩ := sound w i hm h
    exact barred w q hm hok hq

/-! ## Values that a word never has -/

theorem fieldAt_and (w m : Half) (lo n : Nat) : fieldAt (w &&& m) lo n = fieldAt w lo n &&& fieldAt m lo n := by
  rw [fieldAt, BitVec.toNat_and, Nat.and_div_two_pow, Nat.and_mod_two_pow, fieldAt, fieldAt]

/-- No size has the code 3 (30_encoding R122). -/
theorem sized_ne {w : Half} {sz : Size} (h : fieldAt w 6 2 = sizeCode sz) : w &&& 0xC0 ≠ 0xC0 := by
  intro hw
  have hf := congrArg (fieldAt · 6 2) hw
  rw [fieldAt_and, h] at hf
  cases sz <;> exact absurd hf (by decide)

/-- The groups of modes that another row may claim: `Dn`, `An`, both, immediate; those of them that are not allowed. -/
def eaBars (allowed : Ea → Bool) : List (Half × Half) :=
  [(0x38, 0x00), (0x38, 0x08), (0x30, 0x00), (0x3F, 0x3C)].filter fun b => decide (∀ m r : Fin 8, ∀ e ∈ eaOf m.val r,
    allowed e = true → (m.val * 8 + r.val) &&& fieldAt b.1 0 6 ≠ fieldAt b.2 0 6)

theorem eaBars_ne {allowed : Ea → Bool} {w : Half} {e : Ea} (ha : allowed e = true) (h : fieldAt w 0 6 = eaCode e) :
    ∀ b ∈ eaBars allowed, w &&& b.1 ≠ b.2 := by
  intro b hb hw
  have hbar := of_decide_eq_true (List.mem_filter.mp hb).2 ⟨eaMode e, eaMode_lt e⟩ ⟨eaReg e, eaReg_lt e⟩ e
    ((eaOf_eq_iff (eaMode_lt e)).mpr ⟨rfl, rfl⟩) ha
  have hf := congrArg (fieldAt · 0 6) hw
  rw [fieldAt_and, h] at hf
  exact hbar hf

/-- `An` is no destination of `MOVE` (30_encoding R124, 40 R170). -/
theorem dst_ne {w : Half} {d : Ea} (ha : d.isDataAlterable = true) (h : fieldAt w 6 3 = eaMode d) :
    w &&& 0x1C0 ≠ 0x40 := by
  intro hw
  have hf := congrArg (fieldAt · 6 3) hw
  rw [fieldAt_and, h] at hf
  cases d with
  | an n => cases ha
  | _ => exact absurd hf (by simp only [eaMode]; decide)

/-! ## The shapes of rows -/

section
variable {p : Half} {c : Nat}

/-- A whole word. -/
theorem Row.obeys_fixed {k : Instr} (h : CtorForm (P := Unit) (fun _ => k) c (fun _ => true) (fun _ => p.toNat)) :
    Row.Obeys ⟨p, 0xFFFF, fun _ => some k⟩ ⟨p, 0xFFFF, c, []⟩ :=
  Row.obeys_of_format h (fun _ => [(16, none)]) (BitVec.and_allOnes (x := p)) (fun _ => trivial)
    (fun _ _ _ h => ⟨(), Option.some_inj.mp h, rfl, trivial⟩) (fun _ _ _ _ _ => rfl) (fun _ _ _ _ _ => nofun)
    (value := fun _ => rfl)

/-- `sz, <ea>`. -/
theorem Row.obeys_sizeEa {k : Size → Ea → Instr} {allowed : Ea → Bool}
    (h : CtorForm (fun q : Size × Ea => k q.1 q.2) c (fun q => allowed q.2)
      (fun q => p.toNat + sizeCode q.1 * 64 + eaCode q.2))
    (hp : p &&& 0xFF00 = p := by rfl) :
    Row.Obeys ⟨p, 0xFF00, readSizeEa k allowed⟩
      ⟨p, 0xFF00, c, (0xC0, 0xC0) :: eaBars allowed⟩ := by
  refine Row.obeys_of_format h (fun q => [(6, some (eaCode q.2)), (2, some (sizeCode q.1)), (8, none)])
    hp (fun q => ⟨eaCode_lt q.2, (sizeCode_lt q.1).trans (by decide), trivial⟩)
    (fun w i hw h => ?sound) ?complete ?barred
  case sound =>
    unfold readSizeEa at h
    split at h
    next sz e hs he =>
      obtain ⟨ha, he⟩ := eaAt_eq_iff.mp he
      exact ⟨(sz, e), Option.some_inj.mp h, ha, he, sizeAt_eq_iff.mp hs, trivial⟩
    next => cases h
  case complete =>
    rintro w ⟨sz, e⟩ hw ha ⟨he, hs, -⟩
    rw [readSizeEa, sizeAt_eq_iff.mpr hs, eaAt_eq_iff.mpr ⟨ha, he⟩]
  case barred =>
    rintro w ⟨sz, e⟩ hw ha ⟨he, hs, -⟩
    exact List.forall_mem_cons.mpr ⟨sized_ne hs, eaBars_ne ha he⟩

/-- `<ea>`. -/
theorem Row.obeys_oneEa {k : Ea → Instr} {allowed : Ea → Bool}
    (h : CtorForm (fun q : Ea => k q) c (fun q => allowed q)
      (fun q => p.toNat + eaCode q))
    (hp : p &&& 0xFFC0 = p := by rfl) :
    Row.Obeys ⟨p, 0xFFC0, readOneEa k allowed⟩
      ⟨p, 0xFFC0, c, eaBars allowed⟩ := by
  refine Row.obeys_of_format h (fun q => [(6, some (eaCode q)), (10, none)])
    hp (fun q => ⟨eaCode_lt q, trivial⟩)
    (fun w i hw h => ?sound) ?complete ?barred
  case sound =>
    obtain ⟨e, he, hk⟩ := Option.map_eq_some_iff.mp h
    obtain ⟨ha, he⟩ := eaAt_eq_iff.mp he
    exact ⟨e, hk, ha, he, trivial⟩
  case complete =>
    rintro w e hw ha ⟨he, -⟩
    exact Option.map_eq_some_iff.mpr ⟨e, eaAt_eq_iff.mpr ⟨ha, he⟩, rfl⟩
  case barred =>
    rintro w e hw ha ⟨he, -⟩
    exact eaBars_ne ha he

/-- `n, <ea>`. -/
theorem Row.obeys_regEa {k : Reg → Ea → Instr} {allowed : Ea → Bool}
    (h : CtorForm (fun q : Reg × Ea => k q.1 q.2) c (fun q => allowed q.2)
      (fun q => p.toNat + q.1.val * 512 + eaCode q.2))
    (hp : p &&& 0xF1C0 = p := by rfl) :
    Row.Obeys ⟨p, 0xF1C0, readRegEa k allowed⟩
      ⟨p, 0xF1C0, c, eaBars allowed⟩ := by
  refine Row.obeys_of_format h (fun q => [(6, some (eaCode q.2)), (3, none), (3, some q.1.val), (4, none)])
    hp (fun q => ⟨eaCode_lt q.2, q.1.isLt, trivial⟩)
    (fun w i hw h => ?sound) ?complete ?barred
  case sound =>
    obtain ⟨e, he, hk⟩ := Option.map_eq_some_iff.mp h
    obtain ⟨ha, he⟩ := eaAt_eq_iff.mp he
    exact ⟨(regAt w 9, e), hk, ha, he, regAt_eq_iff.mp rfl, trivial⟩
  case complete =>
    rintro w ⟨n, e⟩ hw ha ⟨he, hn, -⟩
    rw [readRegEa, eaAt_eq_iff.mpr ⟨ha, he⟩, regAt_eq_iff.mpr hn]
    rfl
  case barred =>
    rintro w ⟨n, e⟩ hw ha ⟨he, hn, -⟩
    exact eaBars_ne ha he

/-- `n, sz, <ea>`; a group of modes is barred when no size allows it. -/
theorem Row.obeys_regSizeEa {k : Reg → Size → Ea → Instr} {allowed : Size → Ea → Bool}
    (h : CtorForm (fun q : Reg × Size × Ea => k q.1 q.2.1 q.2.2) c (fun q => allowed q.2.1 q.2.2)
      (fun q => p.toNat + q.1.val * 512 + sizeCode q.2.1 * 64 + eaCode q.2.2))
    (hp : p &&& 0xF100 = p := by rfl) :
    Row.Obeys ⟨p, 0xF100, readRegSizeEa k allowed⟩
      ⟨p, 0xF100, c, (0xC0, 0xC0) :: eaBars fun e => allowed .b e || allowed .w e || allowed .l e⟩ := by
  refine Row.obeys_of_format h 
    (fun q => [(6, some (eaCode q.2.2)), (2, some (sizeCode q.2.1)), (1, none), (3, some q.1.val), (4, none)])
    hp (fun q => ⟨eaCode_lt q.2.2, (sizeCode_lt q.2.1).trans (by decide), q.1.isLt, trivial⟩)
    (fun w i hw h => ?sound) ?complete ?barred
  case sound =>
    unfold readRegSizeEa at h
    split at h
    next sz hs =>
      obtain ⟨e, he, hk⟩ := Option.map_eq_some_iff.mp h
      obtain ⟨ha, he⟩ := eaAt_eq_iff.mp he
      exact ⟨(regAt w 9, sz, e), hk, ha, he, sizeAt_eq_iff.mp hs, regAt_eq_iff.mp rfl, trivial⟩
    next => cases h
  case complete =>
    rintro w ⟨n, sz, e⟩ hw ha ⟨he, hs, hn, -⟩
    rw [readRegSizeEa, sizeAt_eq_iff.mpr hs, regAt_eq_iff.mpr hn]
    exact Option.map_eq_some_iff.mpr ⟨e, eaAt_eq_iff.mpr ⟨ha, he⟩, rfl⟩
  case barred =>
    rintro w ⟨n, sz, e⟩ hw ha ⟨he, hs, hn, -⟩
    have hany : (allowed .b e || allowed .w e || allowed .l e) = true := by
      change allowed sz e = true at ha
      cases sz <;> simp [ha]
    exact List.forall_mem_cons.mpr ⟨sized_ne hs, eaBars_ne hany he⟩

/-- `MOVE`, whose two fields have mode and register in opposite order. -/
theorem Row.obeys_move {k : Ea → Ea → Instr} {allowed : Ea → Bool}
    (h : CtorForm (fun q : Ea × Ea => k q.1 q.2) c (fun q => q.1.isDataAlterable && allowed q.2)
      (fun q => p.toNat + eaDstCode q.1 + eaCode q.2))
    (hp : p &&& 0xF000 = p := by rfl) :
    Row.Obeys ⟨p, 0xF000, readMove k allowed⟩
      ⟨p, 0xF000, c, [(0x1C0, 0x40)]⟩ := by
  refine Row.obeys_of_format h
    (fun q => [(6, some (eaCode q.2)), (3, some (eaMode q.1)), (3, some (eaReg q.1)), (4, none)])
    hp (fun q => ⟨eaCode_lt q.2, eaMode_lt q.1, eaReg_lt q.1, trivial⟩)
    (fun w i hw h => ?sound) ?complete ?barred (value := fun q => ?value)
  case sound =>
    unfold readMove at h
    split at h
    next d e hd he =>
      obtain ⟨hda, hm, hr⟩ := eaDstAt_eq_iff.mp hd
      obtain ⟨ha, he⟩ := eaAt_eq_iff.mp he
      exact ⟨(d, e), Option.some_inj.mp h, Bool.and_eq_true_iff.mpr ⟨hda, ha⟩, he, hm, hr, trivial⟩
    next => cases h
  case complete =>
    rintro w ⟨d, e⟩ hw ha ⟨he, hm, hr, -⟩
    obtain ⟨hda, ha⟩ := Bool.and_eq_true_iff.mp ha
    rw [readMove, eaDstAt_eq_iff.mpr ⟨hda, hm, hr⟩, eaAt_eq_iff.mpr ⟨ha, he⟩]
  case barred =>
    rintro w ⟨d, e⟩ hw ha ⟨he, hm, hr, -⟩
    obtain ⟨hda, -⟩ := Bool.and_eq_true_iff.mp ha
    exact List.forall_mem_singleton.mpr (dst_ne hda hm)
  case value =>
    simp only [Format.value, eaDstCode]
    omega

/-- One register. -/
theorem Row.obeys_reg {k : Reg → Instr}
    (h : CtorForm (fun q : Reg => k q) c (fun _ => true)
      (fun q => p.toNat + q.val))
    (hp : p &&& 0xFFF8 = p := by rfl) :
    Row.Obeys ⟨p, 0xFFF8, fun w => some (k (regAt w 0))⟩
      ⟨p, 0xFFF8, c, []⟩ := by
  refine Row.obeys_of_format h (fun q => [(3, some q.val), (13, none)])
    hp (fun q => ⟨q.isLt, trivial⟩)
    (fun w i hw h => ?sound) ?complete (fun _ _ _ _ _ => nofun)
  case sound =>
    exact ⟨regAt w 0, Option.some_inj.mp h, rfl, regAt_eq_iff.mp rfl, trivial⟩
  case complete =>
    rintro w n hw ha ⟨hn, -⟩
    rw [regAt_eq_iff.mpr hn]

/-- `EXG`. -/
theorem Row.obeys_regReg {k : Reg → Reg → Instr}
    (h : CtorForm (fun q : Reg × Reg => k q.1 q.2) c (fun _ => true)
      (fun q => p.toNat + q.1.val * 512 + q.2.val))
    (hp : p &&& 0xF1F8 = p := by rfl) :
    Row.Obeys ⟨p, 0xF1F8, fun w => some (k (regAt w 9) (regAt w 0))⟩
      ⟨p, 0xF1F8, c, []⟩ := by
  refine Row.obeys_of_format h (fun q => [(3, some q.2.val), (6, none), (3, some q.1.val), (4, none)])
    hp (fun q => ⟨q.2.isLt, q.1.isLt, trivial⟩)
    (fun w i hw h => ?sound) ?complete (fun _ _ _ _ _ => nofun)
  case sound =>
    exact ⟨(regAt w 9, regAt w 0), Option.some_inj.mp h, rfl, regAt_eq_iff.mp rfl, regAt_eq_iff.mp rfl, trivial⟩
  case complete =>
    rintro w ⟨x, y⟩ hw ha ⟨hy, hx, -⟩
    rw [regAt_eq_iff.mpr hx, regAt_eq_iff.mpr hy]

/-- `MOVEQ`. -/
theorem Row.obeys_regByte {k : Reg → Byte → Instr}
    (h : CtorForm (fun q : Reg × Byte => k q.1 q.2) c (fun _ => true)
      (fun q => p.toNat + q.1.val * 512 + q.2.toNat))
    (hp : p &&& 0xF100 = p := by rfl) :
    Row.Obeys ⟨p, 0xF100, fun w => some (k (regAt w 9) (byteAt w))⟩
      ⟨p, 0xF100, c, []⟩ := by
  refine Row.obeys_of_format h (fun q => [(8, some q.2.toNat), (1, none), (3, some q.1.val), (4, none)])
    hp (fun q => ⟨q.2.isLt, q.1.isLt, trivial⟩)
    (fun w i hw h => ?sound) ?complete (fun _ _ _ _ _ => nofun)
  case sound =>
    exact ⟨(regAt w 9, byteAt w), Option.some_inj.mp h, rfl, byteAt_eq_iff.mp rfl, regAt_eq_iff.mp rfl, trivial⟩
  case complete =>
    rintro w ⟨n, d⟩ hw ha ⟨hd, hn, -⟩
    rw [regAt_eq_iff.mpr hn, byteAt_eq_iff.mpr hd]

/-- `BRA` and `BSR`. -/
theorem Row.obeys_byte {k : Byte → Instr}
    (h : CtorForm (fun q : Byte => k q) c (fun _ => true)
      (fun q => p.toNat + q.toNat))
    (hp : p &&& 0xFF00 = p := by rfl) :
    Row.Obeys ⟨p, 0xFF00, fun w => some (k (byteAt w))⟩
      ⟨p, 0xFF00, c, []⟩ := by
  refine Row.obeys_of_format h (fun q => [(8, some q.toNat), (8, none)])
    hp (fun q => ⟨q.isLt, trivial⟩)
    (fun w i hw h => ?sound) ?complete (fun _ _ _ _ _ => nofun)
  case sound =>
    exact ⟨byteAt w, Option.some_inj.mp h, rfl, byteAt_eq_iff.mp rfl, trivial⟩
  case complete =>
    rintro w d hw ha ⟨hd, -⟩
    rw [byteAt_eq_iff.mpr hd]

/-- `TRAP`. -/
theorem Row.obeys_trap {k : Fin 16 → Instr}
    (h : CtorForm (fun q : Fin 16 => k q) c (fun _ => true)
      (fun q => p.toNat + q.val))
    (hp : p &&& 0xFFF0 = p := by rfl) :
    Row.Obeys ⟨p, 0xFFF0, fun w => some (k (Fin.ofNat 16 (fieldAt w 0 4)))⟩
      ⟨p, 0xFFF0, c, []⟩ := by
  refine Row.obeys_of_format h (fun q => [(4, some q.val), (12, none)])
    hp (fun q => ⟨q.isLt, trivial⟩)
    (fun w i hw h => ?sound) ?complete (fun _ _ _ _ _ => nofun)
  case sound =>
    exact ⟨_, Option.some_inj.mp h, rfl, (Nat.mod_eq_of_lt (Nat.mod_lt _ (by decide))).symm, trivial⟩
  case complete =>
    rintro w v hw ha ⟨hv, -⟩
    rw [hv, Fin.ofNat_val_eq_self]

/-- `ABCD` and `SBCD`. -/
theorem Row.obeys_pair {k : Reg → PairMode → Reg → Instr}
    (h : CtorForm (fun q : Reg × PairMode × Reg => k q.1 q.2.1 q.2.2) c (fun _ => true)
      (fun q => p.toNat + q.1.val * 512 + pairCode q.2.1 + q.2.2.val))
    (hp : p &&& 0xF1F0 = p := by rfl) :
    Row.Obeys ⟨p, 0xF1F0, fun w => some (k (regAt w 9) (pairAt w) (regAt w 0))⟩
      ⟨p, 0xF1F0, c, []⟩ := by
  refine Row.obeys_of_format h 
    (fun q => [(3, some q.2.2.val), (1, some (pairCode q.2.1 / 8)), (5, none), (3, some q.1.val), (4, none)])
    hp (fun q => ⟨q.2.2.isLt, pairCode_div_lt q.2.1, q.1.isLt, trivial⟩)
    (fun w i hw h => ?sound) ?complete (fun _ _ _ _ _ => nofun) (value := fun q => ?value)
  case sound =>
    exact ⟨(regAt w 9, pairAt w, regAt w 0), Option.some_inj.mp h, rfl, regAt_eq_iff.mp rfl, pairAt_eq_iff.mp rfl,
      regAt_eq_iff.mp rfl, trivial⟩
  case complete =>
    rintro w ⟨x, m, y⟩ hw ha ⟨hy, hm, hx, -⟩
    rw [regAt_eq_iff.mpr hx, pairAt_eq_iff.mpr hm, regAt_eq_iff.mpr hy]
  case value =>
    have hm := pairCode_cases q.2.1
    simp only [Format.value]
    omega

/-- `ADDX` and `SUBX`. -/
theorem Row.obeys_pairSize {k : Reg → Size → PairMode → Reg → Instr}
    (h : CtorForm (fun q : Reg × Size × PairMode × Reg => k q.1 q.2.1 q.2.2.1 q.2.2.2) c (fun _ => true)
      (fun q => p.toNat + q.1.val * 512 + sizeCode q.2.1 * 64 + pairCode q.2.2.1 + q.2.2.2.val))
    (hp : p &&& 0xF130 = p := by rfl) :
    Row.Obeys ⟨p, 0xF130, readPairSize k⟩
      ⟨p, 0xF130, c, [(0xC0, 0xC0)]⟩ := by
  refine Row.obeys_of_format h (fun q => [(3, some q.2.2.2.val), (1, some (pairCode q.2.2.1 / 8)), (2, none),
      (2, some (sizeCode q.2.1)), (1, none), (3, some q.1.val), (4, none)])
    hp (fun q => ⟨q.2.2.2.isLt, pairCode_div_lt q.2.2.1, (sizeCode_lt q.2.1).trans (by decide), q.1.isLt, trivial⟩)
    (fun w i hw h => ?sound) ?complete ?barred (value := fun q => ?value)
  case sound =>
    obtain ⟨sz, hs, hk⟩ := Option.map_eq_some_iff.mp h
    exact ⟨(regAt w 9, sz, pairAt w, regAt w 0), hk, rfl, regAt_eq_iff.mp rfl, pairAt_eq_iff.mp rfl,
      sizeAt_eq_iff.mp hs, regAt_eq_iff.mp rfl, trivial⟩
  case complete =>
    rintro w ⟨x, sz, m, y⟩ hw ha ⟨hy, hm, hs, hx, -⟩
    rw [readPairSize, regAt_eq_iff.mpr hx, sizeAt_eq_iff.mpr hs, pairAt_eq_iff.mpr hm, regAt_eq_iff.mpr hy]
    rfl
  case barred =>
    rintro w ⟨x, sz, m, y⟩ hw ha ⟨hy, hm, hs, hx, -⟩
    exact List.forall_mem_singleton.mpr (sized_ne hs)
  case value =>
    have hm := pairCode_cases q.2.2.1
    simp only [Format.value]
    omega

/-- `CMPM`. -/
theorem Row.obeys_sizePostinc {k : Reg → Size → Reg → Instr}
    (h : CtorForm (fun q : Reg × Size × Reg => k q.1 q.2.1 q.2.2) c (fun _ => true)
      (fun q => p.toNat + q.1.val * 512 + sizeCode q.2.1 * 64 + q.2.2.val))
    (hp : p &&& 0xF138 = p := by rfl) :
    Row.Obeys ⟨p, 0xF138, fun w => (sizeAt w).map fun sz => k (regAt w 9) sz (regAt w 0)⟩
      ⟨p, 0xF138, c, [(0xC0, 0xC0)]⟩ := by
  refine Row.obeys_of_format h 
    (fun q => [(3, some q.2.2.val), (3, none), (2, some (sizeCode q.2.1)), (1, none), (3, some q.1.val), (4, none)])
    hp (fun q => ⟨q.2.2.isLt, (sizeCode_lt q.2.1).trans (by decide), q.1.isLt, trivial⟩)
    (fun w i hw h => ?sound) ?complete ?barred
  case sound =>
    obtain ⟨sz, hs, hk⟩ := Option.map_eq_some_iff.mp h
    exact ⟨(regAt w 9, sz, regAt w 0), hk, rfl, regAt_eq_iff.mp rfl, sizeAt_eq_iff.mp hs, regAt_eq_iff.mp rfl, trivial⟩
  case complete =>
    rintro w ⟨x, sz, y⟩ hw ha ⟨hy, hs, hx, -⟩
    rw [regAt_eq_iff.mpr hx, sizeAt_eq_iff.mpr hs, regAt_eq_iff.mpr hy]
    rfl
  case barred =>
    rintro w ⟨x, sz, y⟩ hw ha ⟨hy, hs, hx, -⟩
    exact List.forall_mem_singleton.mpr (sized_ne hs)

/-- A shift of a register (43 R269). -/
theorem Row.obeys_shift {k : ShiftCount → Size → Reg → Instr}
    (h : CtorForm (fun q : ShiftCount × Size × Reg => k q.1 q.2.1 q.2.2) c (fun _ => true)
      (fun q => p.toNat + countCode q.1 + sizeCode q.2.1 * 64 + q.2.2.val))
    (hp : p &&& 0xF118 = p := by rfl) :
    Row.Obeys ⟨p, 0xF118, readShift k⟩
      ⟨p, 0xF118, c, [(0xC0, 0xC0)]⟩ := by
  refine Row.obeys_of_format h (fun q => [(3, some q.2.2.val), (2, none), (1, some (countCode q.1 / 32 % 2)),
      (2, some (sizeCode q.2.1)), (1, none), (3, some (countCode q.1 / 512)), (4, none)])
    hp (fun q => ⟨q.2.2.isLt, Nat.mod_lt _ (by decide), (sizeCode_lt q.2.1).trans (by decide), countCode_div_lt q.1,
      trivial⟩)
    (fun w i hw h => ?sound) ?complete ?barred (value := fun q => ?value)
  case sound =>
    obtain ⟨sz, hs, hk⟩ := Option.map_eq_some_iff.mp h
    obtain ⟨hi, hc⟩ := countAt_eq_iff.mp (rfl : countAt w = _)
    exact ⟨(countAt w, sz, regAt w 0), hk, rfl, regAt_eq_iff.mp rfl, hi, sizeAt_eq_iff.mp hs, hc, trivial⟩
  case complete =>
    rintro w ⟨t, sz, n⟩ hw ha ⟨hn, hi, hs, hc, -⟩
    rw [readShift, countAt_eq_iff.mpr ⟨hi, hc⟩, sizeAt_eq_iff.mpr hs, regAt_eq_iff.mpr hn]
    rfl
  case barred =>
    rintro w ⟨t, sz, n⟩ hw ha ⟨hn, hi, hs, hc, -⟩
    exact List.forall_mem_singleton.mpr (sized_ne hs)
  case value =>
    obtain ⟨m, hm⟩ := countCode_cases q.1
    simp only [Format.value]
    omega

/-- `MOVEM`, with its size in bit 6. -/
theorem Row.obeys_movem {k : Bool → Ea → Instr} {allowed : Ea → Bool}
    (h : CtorForm (fun q : Bool × Ea => k q.1 q.2) c (fun q => allowed q.2)
      (fun q => p.toNat + bitCode q.1 6 + eaCode q.2))
    (hp : p &&& 0xFF80 = p := by rfl) :
    Row.Obeys ⟨p, 0xFF80, fun w => readOneEa (k (fieldAt w 6 1 == 1)) allowed w⟩
      ⟨p, 0xFF80, c, eaBars allowed⟩ := by
  refine Row.obeys_of_format h (fun q => [(6, some (eaCode q.2)), (1, some q.1.toNat), (9, none)])
    hp (fun q => ⟨eaCode_lt q.2, q.1.toNat_lt, trivial⟩)
    (fun w i hw h => ?sound) ?complete ?barred (value := fun q => ?value)
  case sound =>
    obtain ⟨e, he, hk⟩ := Option.map_eq_some_iff.mp h
    obtain ⟨ha, he⟩ := eaAt_eq_iff.mp he
    exact ⟨(_, e), hk, ha, he, bitAt_eq_iff.mp rfl, trivial⟩
  case complete =>
    rintro w ⟨b, e⟩ hw ha ⟨he, hb, -⟩
    rw [readOneEa, eaAt_eq_iff.mpr ⟨ha, he⟩, bitAt_eq_iff.mpr hb]
    rfl
  case barred =>
    rintro w ⟨b, e⟩ hw ha ⟨he, hb, -⟩
    exact eaBars_ne ha he
  case value =>
    simp only [Format.value, bitCode_eq]
    omega

/-- `MOVEP`, with direction and size in bits 7 and 6. -/
theorem Row.obeys_movep {k : Reg → Bool → Bool → Reg → Instr}
    (h : CtorForm (fun q : Reg × Bool × Bool × Reg => k q.1 q.2.1 q.2.2.1 q.2.2.2) c (fun _ => true)
      (fun q => p.toNat + q.1.val * 512 + bitCode q.2.1 7 + bitCode q.2.2.1 6 + q.2.2.2.val))
    (hp : p &&& 0xF138 = p := by rfl) :
    Row.Obeys ⟨p, 0xF138, fun w => some (k (regAt w 9) (fieldAt w 7 1 == 1) (fieldAt w 6 1 == 1) (regAt w 0))⟩
      ⟨p, 0xF138, c, []⟩ := by
  refine Row.obeys_of_format h (fun q => [(3, some q.2.2.2.val), (3, none), (1, some q.2.2.1.toNat),
      (1, some q.2.1.toNat), (1, none), (3, some q.1.val), (4, none)])
    hp (fun q => ⟨q.2.2.2.isLt, q.2.2.1.toNat_lt, q.2.1.toNat_lt, q.1.isLt, trivial⟩)
    (fun w i hw h => ?sound) ?complete (fun _ _ _ _ _ => nofun) (value := fun q => ?value)
  case sound =>
    exact ⟨(regAt w 9, _, _, regAt w 0), Option.some_inj.mp h, rfl, regAt_eq_iff.mp rfl, bitAt_eq_iff.mp rfl,
      bitAt_eq_iff.mp rfl, regAt_eq_iff.mp rfl, trivial⟩
  case complete =>
    rintro w ⟨x, m, l, y⟩ hw ha ⟨hy, hl, hm, hx, -⟩
    rw [regAt_eq_iff.mpr hx, bitAt_eq_iff.mpr hm, bitAt_eq_iff.mpr hl, regAt_eq_iff.mpr hy]
  case value =>
    simp only [Format.value, bitCode_eq]
    omega

/-- `DBcc`. -/
theorem Row.obeys_condReg {k : Cond → Reg → Instr}
    (h : CtorForm (fun q : Cond × Reg => k q.1 q.2) c (fun _ => true)
      (fun q => p.toNat + condCode q.1 * 256 + q.2.val))
    (hp : p &&& 0xF0F8 = p := by rfl) :
    Row.Obeys ⟨p, 0xF0F8, fun w => some (k (condAt w) (regAt w 0))⟩
      ⟨p, 0xF0F8, c, []⟩ := by
  refine Row.obeys_of_format h (fun q => [(3, some q.2.val), (5, none), (4, some (condCode q.1)), (4, none)])
    hp (fun q => ⟨q.2.isLt, condCode_lt q.1, trivial⟩)
    (fun w i hw h => ?sound) ?complete (fun _ _ _ _ _ => nofun)
  case sound =>
    exact ⟨(condAt w, regAt w 0), Option.some_inj.mp h, rfl, regAt_eq_iff.mp rfl, condAt_eq_iff.mp rfl, trivial⟩
  case complete =>
    rintro w ⟨test, n⟩ hw ha ⟨hn, ht, -⟩
    rw [condAt_eq_iff.mpr ht, regAt_eq_iff.mpr hn]

/-- `Scc`. -/
theorem Row.obeys_condEa {k : Cond → Ea → Instr} {allowed : Ea → Bool}
    (h : CtorForm (fun q : Cond × Ea => k q.1 q.2) c (fun q => allowed q.2)
      (fun q => p.toNat + condCode q.1 * 256 + eaCode q.2))
    (hp : p &&& 0xF0C0 = p := by rfl) :
    Row.Obeys ⟨p, 0xF0C0, fun w => readOneEa (k (condAt w)) allowed w⟩
      ⟨p, 0xF0C0, c, eaBars allowed⟩ := by
  refine Row.obeys_of_format h (fun q => [(6, some (eaCode q.2)), (2, none), (4, some (condCode q.1)), (4, none)])
    hp (fun q => ⟨eaCode_lt q.2, condCode_lt q.1, trivial⟩)
    (fun w i hw h => ?sound) ?complete ?barred
  case sound =>
    obtain ⟨e, he, hk⟩ := Option.map_eq_some_iff.mp h
    obtain ⟨ha, he⟩ := eaAt_eq_iff.mp he
    exact ⟨(condAt w, e), hk, ha, he, condAt_eq_iff.mp rfl, trivial⟩
  case complete =>
    rintro w ⟨test, e⟩ hw ha ⟨he, ht, -⟩
    rw [readOneEa, eaAt_eq_iff.mpr ⟨ha, he⟩, condAt_eq_iff.mpr ht]
    rfl
  case barred =>
    rintro w ⟨test, e⟩ hw ha ⟨he, ht, -⟩
    exact eaBars_ne ha he

/-- A mask of all bits from bit `n` up, in naturals. -/
theorem Format.high_eq_iff {w mask : Half} (n : Nat)
    (hmask : Format.mask [(n, some (w.toNat % 2 ^ n)), (16 - n, none)] = mask.toNat)
    (hp : p &&& mask = p) (hn : n ≤ 16) (hlt : p.toNat + 2 ^ n ≤ 0x10000) :
    w &&& mask = p ↔ p.toNat + w.toNat % 2 ^ n = w.toNat := by
  have hmod : w.toNat % 2 ^ n < 2 ^ n := Nat.mod_lt _ (Nat.two_pow_pos n)
  have h := Format.word_eq_iff (w := w) _ hmask hp (by simp only [Format.width]; omega) ⟨hmod, trivial⟩ rfl
  have hfield : fieldAt w 0 n = w.toNat % 2 ^ n := by rw [fieldAt, pow_zero, Nat.div_one]
  simp only [Format.value, Format.Holds, hfield, and_true, Nat.mul_zero, Nat.add_zero] at h
  rw [← h, ofNat_eq_iff (by omega)]

/-- The words of `BRA` and `BSR` are those of conditions 0 and 1 (46 R300). -/
theorem branch_iff {w : Half} (hw : w &&& 0xF000 = 0x6000) {test : Cond} (ht : fieldAt w 8 4 = condCode test) :
    w &&& 0xFE00 = 0x6000 ↔ ¬ test.isBranch = true := by
  have hbranch : test.isBranch = true ↔ 2 ≤ condCode test := by cases test <;> decide
  rw [Format.high_eq_iff 12 rfl rfl (by decide) (by decide)] at hw
  rw [Format.high_eq_iff 9 rfl rfl (by decide) (by decide), hbranch, ← ht]
  simp only [fieldAt, BitVec.reduceToNat] at hw ⊢
  omega

/-- `Bcc`. -/
theorem Row.obeys_bcc {k : Cond → Byte → Instr}
    (h : CtorForm (fun q : Cond × Byte => k q.1 q.2) c (fun q => q.1.isBranch)
      (fun q => (0x6000 : Half).toNat + condCode q.1 * 256 + q.2.toNat)) :
    Row.Obeys ⟨0x6000, 0xF000, fun w => if w &&& 0xFE00 = 0x6000 then none else some (k (condAt w) (byteAt w))⟩
      ⟨0x6000, 0xF000, c, [(0xFE00, 0x6000)]⟩ := by
  refine Row.obeys_of_format h (fun q => [(8, some q.2.toNat), (4, some (condCode q.1)), (4, none)])
    rfl (fun q => ⟨q.2.isLt, condCode_lt q.1, trivial⟩)
    (fun w i hw h => ?sound) ?complete ?barred (value := fun q => ?value)
  case sound =>
    split at h
    next => cases h
    next hb =>
      have ht := condAt_eq_iff.mp (rfl : condAt w = _)
      exact ⟨(condAt w, byteAt w), Option.some_inj.mp h, not_not.mp ((branch_iff hw ht).not.mp hb),
        byteAt_eq_iff.mp rfl, ht, trivial⟩
  case complete =>
    rintro w ⟨test, d⟩ hw ha ⟨hd, ht, -⟩
    rw [if_neg ((branch_iff hw ht).not.mpr (not_not.mpr ha)), condAt_eq_iff.mpr ht, byteAt_eq_iff.mpr hd]
  case barred =>
    rintro w ⟨test, d⟩ hw ha ⟨hd, ht, -⟩
    exact List.forall_mem_singleton.mpr ((branch_iff hw ht).not.mpr (not_not.mpr ha))
  case value =>
    simp only [Format.value, BitVec.reduceToNat]
    omega

end

/-! ## The lines of the table (30_encoding R121, R151) -/

/-- An entry fixes the bits of a barred value so that its words have it. -/
def Entry.meets (e : Entry) (b : Half × Half) : Bool := e.mask &&& b.1 == b.1 && e.mtch &&& b.1 == b.2

/-- No word is read by both. -/
def Entry.apart (a b : Entry) : Bool :=
  a.mtch &&& b.mask != b.mtch &&& a.mask || a.bars.any b.meets || b.bars.any a.meets

/-- An entry of line `l`, by the top four bits. -/
def Entry.inLine (l : Nat) (e : Entry) : Bool := fieldAt e.mask 12 4 == 15 && fieldAt e.mtch 12 4 == l

section
variable {r r' : Row} {a b : Entry} {w : Half} {i j : Instr}

theorem Row.Obeys.not_meets (ha : r.Obeys a) (hb : r'.Obeys b) (hi : r.decode w = some i) (hj : r'.decode w = some j) :
    ¬ a.bars.any b.meets = true := by
  intro h
  obtain ⟨bar, hbar, hmeets⟩ := List.any_eq_true.mp h
  obtain ⟨hmask, hmtch⟩ := Bool.and_eq_true_iff.mp hmeets
  rw [beq_iff_eq] at hmask hmtch
  refine ha.barred w i hi bar hbar ?_
  rw [← hmask, ← BitVec.and_assoc, hb.masked w j hj, hmtch]

theorem Row.Obeys.not_apart (ha : r.Obeys a) (hb : r'.Obeys b) (hi : r.decode w = some i) (hj : r'.decode w = some j) :
    ¬ a.apart b = true := by
  have hmasks : a.mtch &&& b.mask = b.mtch &&& a.mask := by
    rw [← ha.masked w i hi, ← hb.masked w j hj, BitVec.and_assoc, BitVec.and_assoc, BitVec.and_comm a.mask]
  simp only [Entry.apart, Bool.or_eq_true, bne_iff_ne, not_or, not_not]
  exact ⟨⟨hmasks, ha.not_meets hb hi hj⟩, hb.not_meets ha hj hi⟩

theorem Row.Obeys.line_eq {l : Nat} (ha : r.Obeys a) (hl : a.inLine l = true) (hi : r.decode w = some i) :
    fieldAt w 12 4 = l := by
  obtain ⟨hmask, hmtch⟩ := Bool.and_eq_true_iff.mp hl
  rw [beq_iff_eq] at hmask hmtch
  have hw := congrArg (fieldAt · 12 4) (ha.masked w i hi)
  rw [fieldAt_and, hmask, hmtch] at hw
  rw [← hw, fieldAt, Nat.and_two_pow_sub_one_eq_mod _ 4, Nat.mod_mod]
end

/-- In a list of rows that are apart, whichever row reads a word is the first. -/
theorem firstRow_eq_iff {rows : List Row} {es : List Entry} (hrows : List.Forall₂ Row.Obeys rows es)
    (hes : es.Pairwise fun a b => a.apart b = true) {w : Half} {i : Instr} :
    firstRow w rows = some i ↔ ∃ e ∈ es, ∃ r : Row, r.Obeys e ∧ r.decode w = some i := by
  induction hrows with
  | nil => exact ⟨nofun, fun ⟨_, he, _⟩ => absurd he List.not_mem_nil⟩
  | cons hr hrows ih =>
    obtain ⟨hhead, hes⟩ := List.pairwise_cons.mp hes
    rw [firstRow, List.exists_mem_cons_iff, ← ih hes]
    split
    next j hj =>
      constructor
      · exact fun h => .inl ⟨_, hr, hj.trans h⟩
      · rintro (⟨r', hr', hi⟩ | h)
        · exact hj.symm.trans ((hr.decode_iff w i).mpr ((hr'.decode_iff w i).mp hi))
        · obtain ⟨e, he, r', hr', hi⟩ := (ih hes).mp h
          exact absurd (hhead e he) (hr.not_apart hr' hj hi)
    next hnone =>
      refine ⟨.inr, ?_⟩
      rintro (⟨r', hr', hi⟩ | h)
      · cases hnone.symm.trans ((hr.decode_iff w i).mpr ((hr'.decode_iff w i).mp hi))
      · exact h

/-- The numbers of the constructors of line `l`. -/
def ctorsOfLine (l : Nat) : List Nat :=
  match l with
  | 0 => List.range' 0 21
  | 1 => List.range' 21 1
  | 2 => List.range' 24 2
  | 3 => List.range' 22 2
  | 4 => List.range' 26 32
  | 5 => List.range' 58 4
  | 6 => List.range' 62 3
  | 7 => List.range' 65 1
  | 8 => List.range' 66 5
  | 9 => List.range' 79 5
  | 11 => List.range' 89 5
  | 12 => List.range' 71 8
  | 13 => List.range' 84 5
  | 14 => List.range' 94 16
  | _ => []

/-- The rows of line `l` are those of the constructors `cs`, and no two of them read the same word. -/
def LineObeys (l : Nat) (cs : List Nat) : Prop :=
  ∃ es, List.Forall₂ Row.Obeys (rowsOfLine l) es ∧
    (es.Pairwise (fun a b => a.apart b = true) ∧ (∀ e ∈ es, e.inLine l = true)) ∧ es.map Entry.ctor = cs

section
open Row

theorem line0_obeys : LineObeys 0 (ctorsOfLine 0) :=
  ⟨_,
    .cons (obeys_fixed (.of0 Instr.oriToCcr.elim)) <|
    .cons (obeys_fixed (.of0 Instr.oriToSr.elim)) <|
    .cons (obeys_sizeEa (.of2 Instr.ori.elim)) <|
    .cons (obeys_fixed (.of0 Instr.andiToCcr.elim)) <|
    .cons (obeys_fixed (.of0 Instr.andiToSr.elim)) <|
    .cons (obeys_sizeEa (.of2 Instr.andi.elim)) <|
    .cons (obeys_fixed (.of0 Instr.eoriToCcr.elim)) <|
    .cons (obeys_fixed (.of0 Instr.eoriToSr.elim)) <|
    .cons (obeys_sizeEa (.of2 Instr.eori.elim)) <|
    .cons (obeys_sizeEa (.of2 Instr.subi.elim)) <|
    .cons (obeys_sizeEa (.of2 Instr.addi.elim)) <|
    .cons (obeys_sizeEa (.of2 Instr.cmpi.elim)) <|
    .cons (obeys_oneEa (.of1 Instr.btstImm.elim)) <|
    .cons (obeys_oneEa (.of1 Instr.bchgImm.elim)) <|
    .cons (obeys_oneEa (.of1 Instr.bclrImm.elim)) <|
    .cons (obeys_oneEa (.of1 Instr.bsetImm.elim)) <|
    .cons (obeys_regEa (.of2 Instr.btstReg.elim)) <|
    .cons (obeys_regEa (.of2 Instr.bchgReg.elim)) <|
    .cons (obeys_regEa (.of2 Instr.bclrReg.elim)) <|
    .cons (obeys_regEa (.of2 Instr.bsetReg.elim)) <|
    .cons (obeys_movep (.of4 Instr.movep.elim)) <|
    .nil, by decide +kernel, rfl⟩

theorem line1_obeys : LineObeys 1 (ctorsOfLine 1) :=
  ⟨_,
    .cons (obeys_move (.of2 Instr.moveB.elim)) <|
    .nil, by decide +kernel, rfl⟩

theorem line2_obeys : LineObeys 2 (ctorsOfLine 2) :=
  ⟨_,
    .cons (obeys_move (.of2 Instr.moveL.elim (wf := fun _ _ => (Bool.and_true _).symm))) <|
    .cons (obeys_regEa (.of2 Instr.moveaL.elim)) <|
    .nil, by decide +kernel, rfl⟩

theorem line3_obeys : LineObeys 3 (ctorsOfLine 3) :=
  ⟨_,
    .cons (obeys_move (.of2 Instr.moveW.elim (wf := fun _ _ => (Bool.and_true _).symm))) <|
    .cons (obeys_regEa (.of2 Instr.moveaW.elim)) <|
    .nil, by decide +kernel, rfl⟩

theorem line4_obeys : LineObeys 4 (ctorsOfLine 4) :=
  ⟨_,
    .cons (obeys_sizeEa (.of2 Instr.negx.elim)) <|
    .cons (obeys_oneEa (.of1 Instr.moveFromSr.elim)) <|
    .cons (obeys_regEa (.of2 Instr.chk.elim)) <|
    .cons (obeys_regEa (.of2 Instr.lea.elim)) <|
    .cons (obeys_sizeEa (.of2 Instr.clr.elim)) <|
    .cons (obeys_sizeEa (.of2 Instr.neg.elim)) <|
    .cons (obeys_oneEa (.of1 Instr.moveToCcr.elim)) <|
    .cons (obeys_sizeEa (.of2 Instr.notOp.elim)) <|
    .cons (obeys_oneEa (.of1 Instr.moveToSr.elim)) <|
    .cons (obeys_oneEa (.of1 Instr.nbcd.elim)) <|
    .cons (obeys_reg (.of1 Instr.swap.elim)) <|
    .cons (obeys_oneEa (.of1 Instr.pea.elim)) <|
    .cons (obeys_reg (.of1 Instr.extW.elim)) <|
    .cons (obeys_reg (.of1 Instr.extL.elim)) <|
    .cons (obeys_movem (.of2 Instr.movemToMem.elim)) <|
    .cons (obeys_sizeEa (.of2 Instr.tst.elim)) <|
    .cons (obeys_oneEa (.of1 Instr.tas.elim)) <|
    .cons (obeys_movem (.of2 Instr.movemToRegs.elim)) <|
    .cons (obeys_trap (.of1 Instr.trap.elim)) <|
    .cons (obeys_reg (.of1 Instr.link.elim)) <|
    .cons (obeys_reg (.of1 Instr.unlk.elim)) <|
    .cons (obeys_reg (.of1 Instr.moveAnUsp.elim)) <|
    .cons (obeys_reg (.of1 Instr.moveUspAn.elim)) <|
    .cons (obeys_fixed (.of0 Instr.reset.elim)) <|
    .cons (obeys_fixed (.of0 Instr.nop.elim)) <|
    .cons (obeys_fixed (.of0 Instr.stop.elim)) <|
    .cons (obeys_fixed (.of0 Instr.rte.elim)) <|
    .cons (obeys_fixed (.of0 Instr.rts.elim)) <|
    .cons (obeys_fixed (.of0 Instr.trapv.elim)) <|
    .cons (obeys_fixed (.of0 Instr.rtr.elim)) <|
    .cons (obeys_oneEa (.of1 Instr.jsr.elim)) <|
    .cons (obeys_oneEa (.of1 Instr.jmp.elim)) <|
    .nil, by decide +kernel, rfl⟩

theorem line5_obeys : LineObeys 5 (ctorsOfLine 5) :=
  ⟨_,
    .cons (obeys_regSizeEa (.of3 Instr.addq.elim)) <|
    .cons (obeys_regSizeEa (.of3 Instr.subq.elim)) <|
    .cons (obeys_condReg (.of2 Instr.dbcc.elim)) <|
    .cons (obeys_condEa (.of2 Instr.scc.elim)) <|
    .nil, by decide +kernel, rfl⟩

theorem line6_obeys : LineObeys 6 (ctorsOfLine 6) :=
  ⟨_,
    .cons (obeys_byte (.of1 Instr.bra.elim)) <|
    .cons (obeys_byte (.of1 Instr.bsr.elim)) <|
    .cons (obeys_bcc (.of2 Instr.bcc.elim)) <|
    .nil, by decide +kernel, rfl⟩

theorem line7_obeys : LineObeys 7 (ctorsOfLine 7) :=
  ⟨_,
    .cons (obeys_regByte (.of2 Instr.moveq.elim)) <|
    .nil, by decide +kernel, rfl⟩

theorem line8_obeys : LineObeys 8 (ctorsOfLine 8) :=
  ⟨_,
    .cons (obeys_regEa (.of2 Instr.divu.elim)) <|
    .cons (obeys_regEa (.of2 Instr.divs.elim)) <|
    .cons (obeys_pair (.of3 Instr.sbcd.elim)) <|
    .cons (obeys_regSizeEa (.of3 Instr.orEaDn.elim)) <|
    .cons (obeys_regSizeEa (.of3 Instr.orDnEa.elim)) <|
    .nil, by decide +kernel, rfl⟩

theorem line9_obeys : LineObeys 9 (ctorsOfLine 9) :=
  ⟨_,
    .cons (obeys_regSizeEa (.of3 Instr.subEaDn.elim)) <|
    .cons (obeys_regSizeEa (.of3 Instr.subDnEa.elim)) <|
    .cons (obeys_regEa (.of2 Instr.subaW.elim)) <|
    .cons (obeys_regEa (.of2 Instr.subaL.elim)) <|
    .cons (obeys_pairSize (.of4 Instr.subx.elim)) <|
    .nil, by decide +kernel, rfl⟩

theorem line11_obeys : LineObeys 11 (ctorsOfLine 11) :=
  ⟨_,
    .cons (obeys_regSizeEa (.of3 Instr.cmp.elim)) <|
    .cons (obeys_regEa (.of2 Instr.cmpaW.elim)) <|
    .cons (obeys_regEa (.of2 Instr.cmpaL.elim)) <|
    .cons (obeys_regSizeEa (.of3 Instr.eor.elim)) <|
    .cons (obeys_sizePostinc (.of3 Instr.cmpm.elim)) <|
    .nil, by decide +kernel, rfl⟩

theorem line12_obeys : LineObeys 12 (ctorsOfLine 12) :=
  ⟨_,
    .cons (obeys_regEa (.of2 Instr.mulu.elim)) <|
    .cons (obeys_regEa (.of2 Instr.muls.elim)) <|
    .cons (obeys_pair (.of3 Instr.abcd.elim)) <|
    .cons (obeys_regReg (.of2 Instr.exgDD.elim)) <|
    .cons (obeys_regReg (.of2 Instr.exgAA.elim)) <|
    .cons (obeys_regReg (.of2 Instr.exgDA.elim)) <|
    .cons (obeys_regSizeEa (.of3 Instr.andEaDn.elim)) <|
    .cons (obeys_regSizeEa (.of3 Instr.andDnEa.elim)) <|
    .nil, by decide +kernel, rfl⟩

theorem line13_obeys : LineObeys 13 (ctorsOfLine 13) :=
  ⟨_,
    .cons (obeys_regSizeEa (.of3 Instr.addEaDn.elim)) <|
    .cons (obeys_regSizeEa (.of3 Instr.addDnEa.elim)) <|
    .cons (obeys_regEa (.of2 Instr.addaW.elim)) <|
    .cons (obeys_regEa (.of2 Instr.addaL.elim)) <|
    .cons (obeys_pairSize (.of4 Instr.addx.elim)) <|
    .nil, by decide +kernel, rfl⟩

theorem line14_obeys : LineObeys 14 (ctorsOfLine 14) :=
  ⟨_,
    .cons (obeys_shift (.of3 Instr.asrReg.elim)) <|
    .cons (obeys_oneEa (.of1 Instr.asrMem.elim)) <|
    .cons (obeys_shift (.of3 Instr.aslReg.elim)) <|
    .cons (obeys_oneEa (.of1 Instr.aslMem.elim)) <|
    .cons (obeys_shift (.of3 Instr.lsrReg.elim)) <|
    .cons (obeys_oneEa (.of1 Instr.lsrMem.elim)) <|
    .cons (obeys_shift (.of3 Instr.lslReg.elim)) <|
    .cons (obeys_oneEa (.of1 Instr.lslMem.elim)) <|
    .cons (obeys_shift (.of3 Instr.roxrReg.elim)) <|
    .cons (obeys_oneEa (.of1 Instr.roxrMem.elim)) <|
    .cons (obeys_shift (.of3 Instr.roxlReg.elim)) <|
    .cons (obeys_oneEa (.of1 Instr.roxlMem.elim)) <|
    .cons (obeys_shift (.of3 Instr.rorReg.elim)) <|
    .cons (obeys_oneEa (.of1 Instr.rorMem.elim)) <|
    .cons (obeys_shift (.of3 Instr.rolReg.elim)) <|
    .cons (obeys_oneEa (.of1 Instr.rolMem.elim)) <|
    .nil, by decide +kernel, rfl⟩

end

/-- Every line, those without rows (30_encoding R153) included. -/
theorem line_obeys (l : Nat) : LineObeys l (ctorsOfLine l) :=
  match l with
  | 0 => line0_obeys
  | 1 => line1_obeys
  | 2 => line2_obeys
  | 3 => line3_obeys
  | 4 => line4_obeys
  | 5 => line5_obeys
  | 6 => line6_obeys
  | 7 => line7_obeys
  | 8 => line8_obeys
  | 9 => line9_obeys
  | 10 => ⟨[], .nil, by decide, rfl⟩
  | 11 => line11_obeys
  | 12 => line12_obeys
  | 13 => line13_obeys
  | 14 => line14_obeys
  | _ + 15 => ⟨[], .nil, ⟨.nil, nofun⟩, rfl⟩

theorem Instr.ctorIdx_lt (i : Instr) : i.ctorIdx < 110 := by
  cases i <;> exact Nat.le_of_ble_eq_true rfl

/-- Every constructor has its line. -/
theorem exists_line : ∀ c < 110, ∃ l < 16, c ∈ ctorsOfLine l := by decide +kernel

/-- Every entry is that of a row. -/
theorem exists_row {rows : List Row} {es : List Entry} (h : List.Forall₂ Row.Obeys rows es) {e : Entry} (he : e ∈ es) :
    ∃ r : Row, r.Obeys e := by
  induction h with
  | nil => cases he
  | cons hr _ ih =>
    rcases List.mem_cons.mp he with rfl | he
    · exact ⟨_, hr⟩
    · exact ih he

/-- `decode` and `encode` are the same relation between words and well-formed instructions. -/
theorem decode_eq_ok_iff {w : Half} {i : Instr} : decode w = .ok i ↔ i.wf = true ∧ encode i = w := by
  have hdecode : decode w = .ok i ↔ firstRow w (rowsOfLine (fieldAt w 12 4)) = some i := by
    unfold decode
    cases firstRow w (rowsOfLine (fieldAt w 12 4)) <;> simp
  rw [hdecode]
  constructor
  · intro h
    obtain ⟨es, hrows, ⟨hapart, -⟩, -⟩ := line_obeys (fieldAt w 12 4)
    obtain ⟨e, -, r, hr, hi⟩ := (firstRow_eq_iff hrows hapart).mp h
    exact ((hr.decode_iff w i).mp hi).2
  · rintro ⟨hwf, hw⟩
    obtain ⟨l, -, hc⟩ := exists_line i.ctorIdx i.ctorIdx_lt
    obtain ⟨es, hrows, ⟨hapart, hline⟩, hcs⟩ := line_obeys l
    obtain ⟨e, he, hce⟩ := List.mem_map.mp (hcs ▸ hc)
    obtain ⟨r, hr⟩ := exists_row hrows he
    have hi : r.decode w = some i := (hr.decode_iff w i).mpr ⟨hce.symm, hwf, hw⟩
    rw [hr.line_eq (hline e he) hi]
    exact (firstRow_eq_iff hrows hapart).mpr ⟨e, he, r, hr, hi⟩

/-- Settles O1: the row of `i` reads the word `encode i`, and no other row does. -/
theorem decodeOfEncode : Obligations.DecodeOfEncode := fun _ hwf => decode_eq_ok_iff.mpr ⟨hwf, rfl⟩

/-- Settles O2: a row reads no word but those of the well-formed instructions of its constructor. -/
theorem encodeOfDecode : Obligations.EncodeOfDecode := fun _ _ h => decode_eq_ok_iff.mp h

end Sys2Proof

namespace Sys2Proof

/-! # The indexed extension word (30_encoding R141) -/

theorem scaleAt_eq_iff {w : Half} {lo : Nat} {n : Fin 4} :
    Fin.ofNat 4 (fieldAt w lo 2) = n ↔ fieldAt w lo 2 = n.val := by
  have h : fieldAt w lo 2 < 4 := Nat.mod_lt _ (by decide)
  rw [Fin.ext_iff, Fin.val_ofNat, Nat.mod_eq_of_lt h]

theorem decodeIndexTail_eq_brief_iff {w : Half} {d : Byte} :
    decodeIndexTail w = .brief d ↔ fieldAt w 0 8 = d.toNat ∧ fieldAt w 8 1 = 0 := by
  rw [← byteAt_eq_iff, and_comm, decodeIndexTail]
  split
  next h => rw [IndexTail.brief.injEq, and_iff_right h]
  next h => exact ⟨nofun, fun h' => absurd h'.1 h⟩

theorem decodeIndexTail_eq_full_iff {w : Half} {bs is b3 : Bool} {bd : Fin 4} {iis : Fin 8} :
    decodeIndexTail w = .full bs is bd b3 iis ↔ fieldAt w 0 3 = iis.val ∧ fieldAt w 3 1 = b3.toNat ∧
      fieldAt w 4 2 = bd.val ∧ fieldAt w 6 1 = is.toNat ∧ fieldAt w 7 1 = bs.toNat ∧ fieldAt w 8 1 = 1 := by
  have h2 : fieldAt w 8 1 < 2 := Nat.mod_lt _ (by decide)
  rw [← scaleAt_eq_iff, ← regAt_eq_iff, ← bitAt_eq_iff, ← bitAt_eq_iff, ← bitAt_eq_iff, decodeIndexTail]
  split
  next h => exact ⟨nofun, by omega⟩
  next h =>
    have h1 : fieldAt w 8 1 = 1 := by omega
    rw [IndexTail.full.injEq]
    tauto

/-- A full-format word with a displacement and nothing else. -/
theorem decodeIndexTail_disp {w : Half} {bd : Fin 4} (h : w.toNat / 0x100 % 2 = 1)
    (hw : w.toNat % 0x100 = 16 * bd.val) : decodeIndexTail w = .full false false bd false 0 := by
  rw [decodeIndexTail_eq_full_iff]
  simp only [fieldAt, Bool.toNat_false, Fin.val_zero]
  omega

/-- The pieces of an extension word from bit 0 up. -/
def IndexWord.format (x : IndexWord) : Format :=
  (match x.tail with
    | .brief d => [(8, some d.toNat), (1, some 0)]
    | .full bs is bd b3 iis =>
      [(3, some iis.val), (1, some b3.toNat), (2, some bd.val), (1, some is.toNat), (1, some bs.toNat), (1, some 1)]) ++
    [(2, some x.scale.val), (1, some x.long.toNat), (3, some x.reg.val), (1, some x.addrReg.toNat)]

section
variable {x : IndexWord} {w : Half}

theorem IndexWord.format_mask (x : IndexWord) : x.format.mask = 0 := by
  obtain ⟨_, _, _, _, _ | _⟩ := x <;> rfl

theorem IndexWord.format_width (x : IndexWord) : x.format.width = 16 := by
  obtain ⟨_, _, _, _, _ | _⟩ := x <;> rfl

theorem IndexWord.format_fits (x : IndexWord) : x.format.Fits := by
  obtain ⟨addrReg, reg, long, scale, tail⟩ := x
  cases tail with
  | brief d => exact ⟨d.isLt, Nat.zero_lt_two, scale.isLt, long.toNat_lt, reg.isLt, addrReg.toNat_lt, trivial⟩
  | full bs is bd b3 iis =>
    exact ⟨iis.isLt, b3.toNat_lt, bd.isLt, is.toNat_lt, bs.toNat_lt, Nat.one_lt_two, scale.isLt, long.toNat_lt,
      reg.isLt, addrReg.toNat_lt, trivial⟩

theorem IndexWord.encode_eq_format (x : IndexWord) : encodeIndex x = BitVec.ofNat 16 x.format.value := by
  obtain ⟨addrReg, reg, long, scale, tail⟩ := x
  rw [encodeIndex]
  congr 1
  cases tail <;>
    simp only [IndexWord.format, List.cons_append, List.nil_append, Format.value, encodeIndexTail, bitCode_eq] <;> omega

theorem IndexWord.format_holds_iff : x.format.Holds w 0 ↔ decodeIndex w = x := by
  obtain ⟨addrReg, reg, long, scale, tail⟩ := x
  rw [decodeIndex, IndexWord.mk.injEq, bitAt_eq_iff, bitAt_eq_iff, regAt_eq_iff, scaleAt_eq_iff]
  cases tail with
  | brief d =>
    rw [decodeIndexTail_eq_brief_iff]
    simp only [IndexWord.format, List.cons_append, List.nil_append, Format.Holds, Nat.reduceAdd]
    tauto
  | full bs is bd b3 iis =>
    rw [decodeIndexTail_eq_full_iff]
    simp only [IndexWord.format, List.cons_append, List.nil_append, Format.Holds, Nat.reduceAdd]
    tauto

/-- `encodeIndex` and `decodeIndex` are the same relation between words and descriptors. -/
theorem encodeIndex_eq_iff : encodeIndex x = w ↔ decodeIndex w = x := by
  rw [x.encode_eq_format, x.format.word_eq_iff (p := 0) (mask := 0) x.format_mask rfl x.format_width x.format_fits
    (Nat.zero_add _).symm, and_iff_right (show w &&& 0 = 0 from BitVec.and_zero), x.format_holds_iff]
end

end Sys2Proof

namespace Sys2Proof.Machine

/-! # Decoding, addressing modes and indexed addresses -/

section
open Claims

/-- Settles O3: both halves are `encodeIndex_eq_iff`. -/
theorem indexWordRoundTrip : Obligations.IndexWordRoundTrip :=
  ⟨fun _ => encodeIndex_eq_iff.mpr rfl, fun _ => encodeIndex_eq_iff.mp rfl⟩

/-- Settles O4: each word is the encoding of its instruction (O1), and no row reads the last. -/
theorem exampleWordsDecode : Obligations.ExampleWordsDecode := by
  unfold Obligations.ExampleWordsDecode
  simp only [decode_eq_ok_iff]
  exact ⟨⟨rfl, rfl⟩, ⟨rfl, rfl⟩, ⟨rfl, rfl⟩, ⟨rfl, rfl⟩, ⟨rfl, rfl⟩, ⟨rfl, rfl⟩, ⟨rfl, rfl⟩, ⟨rfl, rfl⟩, ⟨rfl, rfl⟩,
    ⟨rfl, rfl⟩, rfl⟩

/-! ## Decode-misses (30_encoding R153, 60 R420) -/

theorem decode_of_empty_line {w : Half} (h : rowsOfLine (fieldAt w 12 4) = []) : decode w = .error .decodeMiss := by
  rw [decode, h]
  rfl

theorem instructionStep_of_miss {s : State} {e : DecodeError} (h : decode (fetchWord s).1 = .error e) :
    instructionStep s = .next (latchFault s (fetchWord s).2 .decodeMiss) := by
  rw [instructionStep, h]

/-- The word at `PC` does not depend on the result of the step before. -/
theorem fetchWord_trap (s : State) (b : Bool) : (fetchWord { s with trap := b }).1 = (fetchWord s).1 := by
  have h := memRead_of_devices (s := s) (u := { s with trap := b }) rfl rfl rfl rfl s.pc .w
  exact congrArg (fun r => r.1.setWidth 16) h

/-- What a latched decode-miss keeps: the fetch before it changed `PC` and the microwire alone. -/
theorem latchFault_fetchWord (s : State) (r : Fault) :
    ∃ u, latchFault s (fetchWord s).2 r = u ∧ u.fault = some r ∧ u.trap = s.trap ∧ u.d = s.d ∧ u.a = s.a ∧
      u.usp = s.usp ∧ u.ssp = s.ssp ∧ u.isp = s.isp ∧ u.sr = s.sr ∧ u.vbr = s.vbr ∧ u.ram = s.ram ∧ u.psg = s.psg ∧ u.mfp = s.mfp := by
  obtain ⟨m, n, -, h⟩ := fetchWord_state s
  rw [h]
  exact ⟨_, rfl, rfl, rfl, latchFault_d rfl, latchFault_a rfl, latchFault_usp rfl, latchFault_ssp rfl,
    latchFault_isp rfl, rfl, rfl, rfl, rfl, rfl⟩

/-- Settles O6: lines A and F have no rows, and the step at a word without a row latches the fault after the fetch. -/
theorem decodeMissLatchesFault : Obligations.DecodeMissLatchesFault := by
  unfold Obligations.DecodeMissLatchesFault
  refine ⟨fun w hw => ?_, fun s e hf hr hs hp hd => ?_⟩
  · have hfield : fieldAt w 12 4 = w.toNat / 0x1000 := Nat.mod_eq_of_lt (by omega)
    rcases hw with h | h | rfl
    · exact decode_of_empty_line (by rw [hfield, h]; rfl)
    · exact decode_of_empty_line (by rw [hfield, h]; rfl)
    · rfl
  · rw [← fetchWord_trap s false] at hd
    have hrun := (cpuStepFrom_of_running (s := { s with trap := false }) hf hr hs hp).trans (instructionStep_of_miss hd)
    obtain ⟨u, hu, hkeeps⟩ := latchFault_fetchWord { s with trap := false } .decodeMiss
    exact ⟨u, step_of_next (hrun.trans (congrArg _ hu)), hkeeps⟩

/-! ## Addressing modes (30_encoding R130 to R142) -/

theorem append_eq_ofNat (hi lo : Half) : hi ++ lo = BitVec.ofNat 32 (hi.toNat * 0x10000 + lo.toNat) := by
  apply BitVec.eq_of_toNat_eq
  rw [append_toNat, BitVec.toNat_ofNat]
  omega

theorem stepOf_eq (sz : Size) (n : Reg) :
    stepOf sz n = if sz = .b ∧ n = 7 then 2 else BitVec.ofNat 32 (byteCount sz) := by
  cases sz with
  | b => simp only [stepOf, Config.a7ByteStep, byteCount, Fin.ext_iff, true_and]; rfl
  | w => rfl
  | l => rfl

/-- Two fetches in the words of the claims, the high word first. -/
theorem run_fetch32_words (s : State) :
    fetch32 s = .ok (BitVec.ofNat 32 ((word1 s).toNat * 0x10000 + (word1 (after1 s)).toNat)) (after1 (after1 s)) := by
  rw [← append_eq_ofNat]
  rfl

theorem fetchImm_b (s : State) : fetchImm .b s = .ok (BitVec.ofNat 32 ((word1 s).toNat % 0x100)) (after1 s) := by
  have h : ((word1 s).setWidth 8).setWidth 32 = BitVec.ofNat 32 ((word1 s).toNat % 0x100) := by
    apply BitVec.eq_of_toNat_eq
    simp only [BitVec.toNat_setWidth, BitVec.toNat_ofNat]
  rw [← h]
  rfl

theorem word1_eq_memRead (s : State) : (word1 s).setWidth 32 = (memRead s s.pc .w).1 := by
  have h := memRead_lt s s.pc .w
  apply BitVec.eq_of_toNat_eq
  simp only [word1, fetchWord, BitVec.toNat_setWidth, bitCount] at h ⊢
  omega

/-- Settles O25: each mode is a run of fetches, looks and changes. -/
theorem addressingModes : Obligations.AddressingModes := by
  unfold Obligations.AddressingModes
  intro s n sz
  simp only [← stepOf_eq, BitVec.ofNat_toNat]
  refine ⟨rfl, rfl, rfl, rfl, rfl, ?_, rfl, run_bind_ok (run_fetch32_words s), rfl, run_bind_ok (fetchImm_b s), rfl,
    run_bind_ok (run_fetch32_words s), fun a s1 h => run_bind_ok h, fun a s1 h => run_bind_ok h, fetchWord_pc s,
    word1_eq_memRead s⟩
  rw [← after1_areg s n]
  rfl

/-! ## Indexed addresses (30_encoding R141) -/

/-- The index register of an extension word. -/
def indexRegister (s : State) (w : Nat) : Word :=
  if w / 0x8000 = 1 then s.areg (Fin.ofNat 8 (w / 0x1000)) else s.dreg (Fin.ofNat 8 (w / 0x1000))

/-- The index before scaling, as an integer. -/
def indexInt (s : State) (w : Nat) : Int :=
  if w / 0x800 % 2 = 1 then (indexRegister s w).toNat else signedOf .w (trunc .w (indexRegister s w))

theorem indexValue_eq (s : State) (w : Half) :
    indexValue s (decodeIndex w) = BitVec.ofInt 32 (indexInt s w.toNat) := by
  have haddr : (fieldAt w 15 1 == 1) = true ↔ w.toNat / 0x8000 = 1 := by
    rw [beq_iff_eq, fieldAt]
    omega
  have hlong : (fieldAt w 11 1 == 1) = true ↔ w.toNat / 0x800 % 2 = 1 := beq_iff_eq
  have hreg : regAt w 12 = Fin.ofNat 8 (w.toNat / 0x1000) := by
    rw [regAt_eq_iff]
    rfl
  have hr : (if (decodeIndex w).addrReg then s.areg (decodeIndex w).reg else s.dreg (decodeIndex w).reg) =
      indexRegister s w.toNat := by
    simp only [decodeIndex, haddr, hreg, indexRegister]
  rw [indexValue, hr, indexInt]
  simp only [decodeIndex, hlong]
  split
  · exact (ofInt_toNat _).symm
  · rw [← signed16_eq]
    rfl

/-- The sum of an indexed address, as an integer modulo `2^32`. -/
theorem indexed_sum {base d v : Word} {t x : Int} (hd : d = BitVec.ofInt 32 t) (hv : v = BitVec.ofInt 32 x) (k : Nat) :
    base + d + v <<< k = ofValue .l (base.toNat + t + x * 2 ^ k) := by
  have hshift : v <<< k = BitVec.ofInt 32 (x * 2 ^ k) := by
    have hpow : BitVec.ofInt 32 (2 ^ k) = BitVec.twoPow 32 k := by
      apply BitVec.eq_of_toNat_eq
      rw [BitVec.toNat_twoPow, ← BitVec.toNat_ofNat, ← BitVec.ofInt_natCast, Nat.cast_pow, Nat.cast_ofNat]
    rw [BitVec.shiftLeft_eq_mul_twoPow, BitVec.ofInt_mul, ← hv, hpow]
  rw [ofValue_eq, BitVec.ofInt_add, BitVec.ofInt_add, ofInt_toNat, ← hd, ← hshift]
  rfl

section
variable {base : Word} {s t : State} {d : Word} {i : Int}

theorem indexAddress_of_disp (h : indexDisp (decodeIndex (word1 s)) (after1 s) = .ok d t) (hd : d = BitVec.ofInt 32 i) :
    indexAddress base s =
      .ok (ofValue .l (base.toNat + i + indexInt s (word1 s).toNat * 2 ^ ((word1 s).toNat / 0x200 % 4))) t := by
  have hv : indexValue (after1 s) (decodeIndex (word1 s)) = BitVec.ofInt 32 (indexInt s (word1 s).toNat) := by
    rw [indexValue_eq, indexInt, indexInt, indexRegister, indexRegister, after1_areg, after1_dreg]
  have hscale : (decodeIndex (word1 s)).scale.val = (word1 s).toNat / 0x200 % 4 := Nat.mod_mod _ _
  rw [run_indexAddress, run_bind_ok h, run_pure, indexed_sum hd hv, hscale]
end

theorem indexDisp_word {x : IndexWord} (h : x.tail = .full false false 2 false 0) :
    indexDisp x = (fetch16 >>= fun w => pure (w.signExtend 32)) := by
  rw [indexDisp, h]
  rfl

theorem indexDisp_long {x : IndexWord} (h : x.tail = .full false false 3 false 0) : indexDisp x = fetch32 := by
  rw [indexDisp, h]
  rfl

theorem byteAt_toInt (w : Half) : (byteAt w).toInt = signedOf .b (BitVec.ofNat 32 (w.toNat % 0x100)) := by
  have h8 : (byteAt w).toNat = w.toNat % 0x100 := BitVec.toNat_ofNat _ _
  have h32 : (BitVec.ofNat 32 (w.toNat % 0x100)).toNat = w.toNat % 0x100 := by
    rw [BitVec.toNat_ofNat]
    omega
  rw [BitVec.toInt_eq_toNat_cond, signedOf, h8, h32]
  rfl

/-- Settles O26: the displacement by its format, then `indexAddress_of_disp`; of the full formats that `indexDisp_full`
lists the first two have the low bytes 0x20 and 0x30. -/
theorem indexedAddress : Obligations.IndexedAddress := by
  unfold Obligations.IndexedAddress
  intro s base
  refine ⟨fun h => ?brief, fun h hw => ?word, fun h hw => ?long, fun h h2 h3 => ?missing⟩
  case brief =>
    have hd := indexDisp_brief (x := decodeIndex (word1 s)) (decodeIndexTail_brief h)
    exact indexAddress_of_disp (by rw [hd, run_pure]) (by rw [← byteAt_toInt]; rfl)
  case word =>
    have hd := indexDisp_word (x := decodeIndex (word1 s)) (decodeIndexTail_disp h hw)
    exact indexAddress_of_disp (by rw [hd, run_bind_ok (run_fetch16_words _), run_pure]) (signExtend_eq_ofInt _)
  case long =>
    have hd := indexDisp_long (x := decodeIndex (word1 s)) (decodeIndexTail_disp h hw)
    exact indexAddress_of_disp (by rw [hd, run_fetch32_words]) (BitVec.ofInt_natCast _ _).symm
  case missing =>
    obtain ⟨bs, is, bd, b3, iis, ht, hbits⟩ := decodeIndexTail_full h
    rcases indexDisp_full (x := decodeIndex (word1 s)) ht with
      ⟨⟨rfl, rfl, rfl, h0⟩, hbd, -⟩ | ⟨⟨rfl, rfl, rfl, h0⟩, hbd, -⟩ | ⟨-, hd⟩
    · exact absurd (by rw [hbits, h0, hbd]; rfl) h2
    · exact absurd (by rw [hbits, h0, hbd]; rfl) h3
    · rw [run_indexAddress, run_bind_error (by rw [hd, run_hostFault])]
end
end Sys2Proof.Machine
